-- ==== Sys2Proof/Word.lean ====
section
/-! DEFINITION. The words of the machine (spec 00_scope.md R5, R9): every value is unsigned; there is no sign extension anywhere. -/

namespace Sys2Proof

/-- `u8`: a V register, a timer, a memory cell, the immediate KK. -/
abbrev Byte := BitVec 8

/-- `u16`: I, PC, a call-stack entry, an instruction word. -/
abbrev Word := BitVec 16

/-- A 4-bit field of an instruction that is not a register number: N, or an ignored nibble. -/
abbrev Nibble := BitVec 4

/-- The 12-bit address field NNN. -/
abbrev Addr12 := BitVec 12

/-- The number of a general register; every index a 4-bit field can form is valid (10_state.md R10). -/
abbrev RegIx := Fin 16

/-- `V[0xF]`, the general register that also holds the flag (10_state.md R11). -/
abbrev regF : RegIx := 15

end Sys2Proof
end

