-- ==== Sys2Proof/Config.lean ====
section
/-! DEFINITION. What is fixed for one machine: its constants (00_scope.md R5), its configuration (R6, R7, 20_memory.md R43) and the free values it draws. -/

namespace Sys2Proof

/-- `MEM_SIZE`: valid addresses are 0 to 4095 (R5). -/
abbrev memSize : Nat := 4096

/-- `PROG_START`: the reset value of PC and the load address (R5). -/
abbrev progStart : Nat := 0x200

/-- `MAX_IMAGE = MEM_SIZE - PROG_START`: the largest image LOAD accepts (R5, decision D25). -/
abbrev maxImage : Nat := 3584

/-- The configuration of the block (10_state.md R26): fixed before reset and changed by no operation. Every step takes it as an
argument through the field `cfg` of the state. -/
structure Config where
  /-- `FONT_BASE`, with FONT_BASE + 80 <= 0x200, so at most 432 (R6). -/
  fontBase : Fin 433
  /-- `SHIFT_USES_VY`: the shift dialect of 8XY6 and 8XYE (R7). -/
  shiftUsesVY : Bool
  /-- `FONT[0..79]`: 16 glyphs of 5 bytes (20_memory.md R43). -/
  font : Vector Byte 80
  deriving DecidableEq, Repr

/-- FREE VALUE: the byte that draw number k of the input RND gives (10_state.md R23: any value may follow any value).
It has no body, so nothing can be proved of it: a claim holds for every sequence of draws. Log entry 4. -/
opaque Config.freeRnd : Nat → Byte

end Sys2Proof
end

