-- ==== Sys2Proof/Syntax.lean ====
section
/-! DEFINITION. The instructions: one constructor for each row of spec/opcode_table.json, in the table's order (30_encoding.md R76,
R77). The operands are the row's fields; a field the decoder and the operation both ignore (R75) is kept as an operand, so that an
instruction determines its word (log entry 11). -/

namespace Sys2Proof

inductive Instr where
  /-- `00E0` CLS: clear the display. `ign` is the ignored X nibble. -/
  | cls (ign : Nibble)
  /-- `00EE` RET: return from subroutine. `ign` is the ignored X nibble. -/
  | ret (ign : Nibble)
  /-- `1NNN` JP addr. -/
  | jp (nnn : Addr12)
  /-- `2NNN` CALL addr. -/
  | call (nnn : Addr12)
  /-- `3XKK` SE Vx, byte. -/
  | seImm (x : RegIx) (kk : Byte)
  /-- `4XKK` SNE Vx, byte. -/
  | sneImm (x : RegIx) (kk : Byte)
  /-- `5XY_` SE Vx, Vy. `ign` is the ignored N nibble. -/
  | seReg (x y : RegIx) (ign : Nibble)
  /-- `6XKK` LD Vx, byte. -/
  | ldImm (x : RegIx) (kk : Byte)
  /-- `7XKK` ADD Vx, byte. -/
  | addImm (x : RegIx) (kk : Byte)
  /-- `8XY0` LD Vx, Vy. -/
  | ldReg (x y : RegIx)
  /-- `8XY1` OR Vx, Vy. -/
  | orReg (x y : RegIx)
  /-- `8XY2` AND Vx, Vy. -/
  | andReg (x y : RegIx)
  /-- `8XY3` XOR Vx, Vy. -/
  | xorReg (x y : RegIx)
  /-- `8XY4` ADD Vx, Vy. -/
  | addReg (x y : RegIx)
  /-- `8XY5` SUB Vx, Vy. -/
  | subReg (x y : RegIx)
  /-- `8XY6` SHR Vx, Vy. -/
  | shrReg (x y : RegIx)
  /-- `8XY7` SUBN Vx, Vy. -/
  | subnReg (x y : RegIx)
  /-- `8XYE` SHL Vx, Vy. -/
  | shlReg (x y : RegIx)
  /-- `9XY_` SNE Vx, Vy. `ign` is the ignored N nibble. -/
  | sneReg (x y : RegIx) (ign : Nibble)
  /-- `ANNN` LD I, addr. -/
  | ldI (nnn : Addr12)
  /-- `BNNN` JP V0, addr. -/
  | jpV0 (nnn : Addr12)
  /-- `CXKK` RND Vx, byte. -/
  | rnd (x : RegIx) (kk : Byte)
  /-- `DXYN` DRW Vx, Vy, nibble. -/
  | drw (x y : RegIx) (n : Nibble)
  /-- `EX9E` SKP Vx. -/
  | skp (x : RegIx)
  /-- `EXA1` SKNP Vx. -/
  | sknp (x : RegIx)
  /-- `FX07` LD Vx, DT. -/
  | ldVxDt (x : RegIx)
  /-- `FX0A` LD Vx, K: wait for a key. -/
  | ldVxKey (x : RegIx)
  /-- `FX15` LD DT, Vx. -/
  | ldDtVx (x : RegIx)
  /-- `FX18` LD ST, Vx. -/
  | ldStVx (x : RegIx)
  /-- `FX1E` ADD I, Vx. -/
  | addI (x : RegIx)
  /-- `FX29` LD F, Vx. -/
  | ldFont (x : RegIx)
  /-- `FX33` LD B, Vx. -/
  | storeBcd (x : RegIx)
  /-- `FX55` LD [I], Vx. -/
  | storeRegs (x : RegIx)
  /-- `FX65` LD Vx, [I]. -/
  | loadRegs (x : RegIx)
  /-- Every unmapped word (R77): no operation. `w` is the whole ignored word. -/
  | nop (w : Word)
  deriving DecidableEq, Repr

end Sys2Proof
end

