-- ==== Sys2Proof/WellFormed.lean ====
section
/-! DEFINITION. Which instructions are well formed. Every operand is bounded by its type, so the one check left is that a NOP carries
an unmapped word (30_encoding.md R77). -/

namespace Sys2Proof

/-- The unmapped words, exactly as 30_encoding.md R77 lists them family by family. It does not use the decoder. -/
def unmapped (w : Word) : Bool :=
  let t := w.toNat / 4096
  let kk := w.toNat % 256
  let n := w.toNat % 16
  (t == 0x0 && !([0xE0, 0xEE].contains kk)) ||
  (t == 0x8 && [0x8, 0x9, 0xA, 0xB, 0xC, 0xD, 0xF].contains n) ||
  (t == 0xE && !([0x9E, 0xA1].contains kk)) ||
  (t == 0xF && !([0x07, 0x0A, 0x15, 0x18, 0x1E, 0x29, 0x33, 0x55, 0x65].contains kk))

/-- An instruction is well formed when some word encodes it. -/
def Instr.wellFormed : Instr → Bool
  | .nop w => unmapped w
  | .cls _ | .ret _ | .jp _ | .call _ | .seImm _ _ | .sneImm _ _ | .seReg _ _ _ | .ldImm _ _ | .addImm _ _ | .ldReg _ _
  | .orReg _ _ | .andReg _ _ | .xorReg _ _ | .addReg _ _ | .subReg _ _ | .shrReg _ _ | .subnReg _ _ | .shlReg _ _
  | .sneReg _ _ _ | .ldI _ | .jpV0 _ | .rnd _ _ | .drw _ _ _ | .skp _ | .sknp _ | .ldVxDt _ | .ldVxKey _ | .ldDtVx _
  | .ldStVx _ | .addI _ | .ldFont _ | .storeBcd _ | .storeRegs _ | .loadRegs _ => true

end Sys2Proof
end

