-- ==== Sys2Proof/Decode.lean ====
section
/-! DEFINITION. Decode and encode (30_encoding.md R70 to R83). The decoder depends on the word alone (R83); a word always decodes,
an unmapped one to `nop`. The encoder is written from the formats of R72 and the match column of R76. -/

namespace Sys2Proof

/-! ## The six fields (R71) -/

/-- `T = W[15:12]`, the opcode family. -/
def fieldT (w : Word) : Nibble := w.extractLsb' 12 4

/-- `X = W[11:8]` as bits. -/
def nibbleX (w : Word) : Nibble := w.extractLsb' 8 4

/-- `Y = W[7:4]` as bits. -/
def nibbleY (w : Word) : Nibble := w.extractLsb' 4 4

/-- `N = W[3:0]`. -/
def fieldN (w : Word) : Nibble := w.extractLsb' 0 4

/-- `KK = W[7:0]`. -/
def fieldKK (w : Word) : Byte := w.extractLsb' 0 8

/-- `NNN = W[11:0]`, a byte address, unsigned and unscaled (R80). -/
def fieldNNN (w : Word) : Addr12 := w.extractLsb' 0 12

/-- A register number from its 4 bits (R10: all 16 are valid). -/
def regOfBits (n : Nibble) : RegIx := n.toFin

/-- The 4 bits of a register number. -/
def bitsOfReg (r : RegIx) : Nibble := BitVec.ofFin r

/-- The register that `X` names. -/
def fieldX (w : Word) : RegIx := regOfBits (nibbleX w)

/-- The register that `Y` names. -/
def fieldY (w : Word) : RegIx := regOfBits (nibbleY w)

/-! ## Decode (R73, R74, R83) -/

/-- Family 0x0: the selector is KK, the X nibble is not tested (R75). -/
def decodeFamily0 (w : Word) : Instr :=
  match (fieldKK w).toNat with
  | 0xE0 => .cls (nibbleX w)
  | 0xEE => .ret (nibbleX w)
  | _ => .nop w

/-- Family 0x8: the selector is N. -/
def decodeFamily8 (w : Word) : Instr :=
  match (fieldN w).toNat with
  | 0x0 => .ldReg (fieldX w) (fieldY w)
  | 0x1 => .orReg (fieldX w) (fieldY w)
  | 0x2 => .andReg (fieldX w) (fieldY w)
  | 0x3 => .xorReg (fieldX w) (fieldY w)
  | 0x4 => .addReg (fieldX w) (fieldY w)
  | 0x5 => .subReg (fieldX w) (fieldY w)
  | 0x6 => .shrReg (fieldX w) (fieldY w)
  | 0x7 => .subnReg (fieldX w) (fieldY w)
  | 0xE => .shlReg (fieldX w) (fieldY w)
  | _ => .nop w

/-- Family 0xE: the selector is KK. -/
def decodeFamilyE (w : Word) : Instr :=
  match (fieldKK w).toNat with
  | 0x9E => .skp (fieldX w)
  | 0xA1 => .sknp (fieldX w)
  | _ => .nop w

/-- Family 0xF: the selector is KK. -/
def decodeFamilyF (w : Word) : Instr :=
  match (fieldKK w).toNat with
  | 0x07 => .ldVxDt (fieldX w)
  | 0x0A => .ldVxKey (fieldX w)
  | 0x15 => .ldDtVx (fieldX w)
  | 0x18 => .ldStVx (fieldX w)
  | 0x1E => .addI (fieldX w)
  | 0x29 => .ldFont (fieldX w)
  | 0x33 => .storeBcd (fieldX w)
  | 0x55 => .storeRegs (fieldX w)
  | 0x65 => .loadRegs (fieldX w)
  | _ => .nop w

/-- `decode(W)` of R83: total, on the word alone. -/
def decode (w : Word) : Instr :=
  match (fieldT w).toNat with
  | 0x0 => decodeFamily0 w
  | 0x1 => .jp (fieldNNN w)
  | 0x2 => .call (fieldNNN w)
  | 0x3 => .seImm (fieldX w) (fieldKK w)
  | 0x4 => .sneImm (fieldX w) (fieldKK w)
  | 0x5 => .seReg (fieldX w) (fieldY w) (fieldN w)
  | 0x6 => .ldImm (fieldX w) (fieldKK w)
  | 0x7 => .addImm (fieldX w) (fieldKK w)
  | 0x8 => decodeFamily8 w
  | 0x9 => .sneReg (fieldX w) (fieldY w) (fieldN w)
  | 0xA => .ldI (fieldNNN w)
  | 0xB => .jpV0 (fieldNNN w)
  | 0xC => .rnd (fieldX w) (fieldKK w)
  | 0xD => .drw (fieldX w) (fieldY w) (fieldN w)
  | 0xE => decodeFamilyE w
  | _ => decodeFamilyF w  -- T is 4 bits, so the one value left is 0xF

/-- `W = MEM[PC] * 256 + MEM[PC + 1]`: the first byte is the most significant (20_memory.md R48). -/
def wordOfBytes (hi lo : Byte) : Word := hi ++ lo

/-- The two bytes of a word as they stand in memory, the first at the lower address (R48). -/
def bytesOfWord (w : Word) : List Byte := [w.extractLsb' 8 8, w.extractLsb' 0 8]

/-- Why a byte list holds no instruction. -/
inductive DecodeError where
  /-- Fewer than two bytes: every instruction is exactly 2 bytes long (R70). -/
  | truncated
  deriving DecidableEq, Repr

/-- The instruction at the head of a byte list, and the bytes after it. -/
def decodeBytes : List Byte → Except DecodeError (Instr × List Byte)
  | hi :: lo :: rest => .ok (decode (wordOfBytes hi lo), rest)
  | _ => .error .truncated

/-- The word whose low `nbits` bits are those of `w`, every higher bit 0: how spec/opcode_table.json numbers an instruction's bits
(bit 0 the least significant bit of the one 16-bit word). -/
def tableWord (nbits w : Nat) : Word := BitVec.ofNat 16 (w % 2 ^ nbits)

/-- The instruction the decoder reads from an instruction whose bits are `w` as the opcode table numbers them. -/
def decodeTableWord (nbits w : Nat) : Option Instr :=
  match decodeBytes (bytesOfWord (tableWord nbits w)) with
  | .ok (i, _) => some i
  | .error _ => none

/-! ## Encode (R72, R76) -/

/-- Format `A`: T, NNN. -/
def formatA (t : Nibble) (nnn : Addr12) : Word := t ++ nnn

/-- Formats `XK`, `XS` and `Z`: T, X, KK (KK an immediate or a selector). -/
def formatXK (t x : Nibble) (kk : Byte) : Word := t ++ x ++ kk

/-- Formats `XY`, `XYS` and `XYN`: T, X, Y, N (N ignored, a selector or an immediate). -/
def formatXYN (t x y n : Nibble) : Word := t ++ x ++ y ++ n

/-- The word of an instruction. -/
def encode : Instr → Word
  | .cls ign => formatXK 0x0 ign 0xE0
  | .ret ign => formatXK 0x0 ign 0xEE
  | .jp nnn => formatA 0x1 nnn
  | .call nnn => formatA 0x2 nnn
  | .seImm x kk => formatXK 0x3 (bitsOfReg x) kk
  | .sneImm x kk => formatXK 0x4 (bitsOfReg x) kk
  | .seReg x y ign => formatXYN 0x5 (bitsOfReg x) (bitsOfReg y) ign
  | .ldImm x kk => formatXK 0x6 (bitsOfReg x) kk
  | .addImm x kk => formatXK 0x7 (bitsOfReg x) kk
  | .ldReg x y => formatXYN 0x8 (bitsOfReg x) (bitsOfReg y) 0x0
  | .orReg x y => formatXYN 0x8 (bitsOfReg x) (bitsOfReg y) 0x1
  | .andReg x y => formatXYN 0x8 (bitsOfReg x) (bitsOfReg y) 0x2
  | .xorReg x y => formatXYN 0x8 (bitsOfReg x) (bitsOfReg y) 0x3
  | .addReg x y => formatXYN 0x8 (bitsOfReg x) (bitsOfReg y) 0x4
  | .subReg x y => formatXYN 0x8 (bitsOfReg x) (bitsOfReg y) 0x5
  | .shrReg x y => formatXYN 0x8 (bitsOfReg x) (bitsOfReg y) 0x6
  | .subnReg x y => formatXYN 0x8 (bitsOfReg x) (bitsOfReg y) 0x7
  | .shlReg x y => formatXYN 0x8 (bitsOfReg x) (bitsOfReg y) 0xE
  | .sneReg x y ign => formatXYN 0x9 (bitsOfReg x) (bitsOfReg y) ign
  | .ldI nnn => formatA 0xA nnn
  | .jpV0 nnn => formatA 0xB nnn
  | .rnd x kk => formatXK 0xC (bitsOfReg x) kk
  | .drw x y n => formatXYN 0xD (bitsOfReg x) (bitsOfReg y) n
  | .skp x => formatXK 0xE (bitsOfReg x) 0x9E
  | .sknp x => formatXK 0xE (bitsOfReg x) 0xA1
  | .ldVxDt x => formatXK 0xF (bitsOfReg x) 0x07
  | .ldVxKey x => formatXK 0xF (bitsOfReg x) 0x0A
  | .ldDtVx x => formatXK 0xF (bitsOfReg x) 0x15
  | .ldStVx x => formatXK 0xF (bitsOfReg x) 0x18
  | .addI x => formatXK 0xF (bitsOfReg x) 0x1E
  | .ldFont x => formatXK 0xF (bitsOfReg x) 0x29
  | .storeBcd x => formatXK 0xF (bitsOfReg x) 0x33
  | .storeRegs x => formatXK 0xF (bitsOfReg x) 0x55
  | .loadRegs x => formatXK 0xF (bitsOfReg x) 0x65
  | .nop w => w

/-! ## The opcode table (R76), read a second way: by match and mask -/

/-- The name of an instruction's row in spec/opcode_table.json. -/
def rowOf : Instr → String
  | .cls _ => "00E0" | .ret _ => "00EE" | .jp _ => "1NNN" | .call _ => "2NNN" | .seImm _ _ => "3XKK" | .sneImm _ _ => "4XKK"
  | .seReg _ _ _ => "5XY_" | .ldImm _ _ => "6XKK" | .addImm _ _ => "7XKK" | .ldReg _ _ => "8XY0" | .orReg _ _ => "8XY1"
  | .andReg _ _ => "8XY2" | .xorReg _ _ => "8XY3" | .addReg _ _ => "8XY4" | .subReg _ _ => "8XY5" | .shrReg _ _ => "8XY6"
  | .subnReg _ _ => "8XY7" | .shlReg _ _ => "8XYE" | .sneReg _ _ _ => "9XY_" | .ldI _ => "ANNN" | .jpV0 _ => "BNNN"
  | .rnd _ _ => "CXKK" | .drw _ _ _ => "DXYN" | .skp _ => "EX9E" | .sknp _ => "EXA1" | .ldVxDt _ => "FX07" | .ldVxKey _ => "FX0A"
  | .ldDtVx _ => "FX15" | .ldStVx _ => "FX18" | .addI _ => "FX1E" | .ldFont _ => "FX29" | .storeBcd _ => "FX33"
  | .storeRegs _ => "FX55" | .loadRegs _ => "FX65" | .nop _ => "NOP"

/-- A row of the opcode table: the word selects it when `word and mask = match` (R76). -/
structure OpcodeRow where
  name : String
  pattern : Word
  mask : Word
  deriving DecidableEq, Repr

/-- Does this word select this row? -/
def OpcodeRow.selects (r : OpcodeRow) (w : Word) : Bool := w &&& r.mask == r.pattern

/-- The 34 rows of R76, pattern and mask as the rule writes them. -/
def opcodeRows : List OpcodeRow :=
  [⟨"00E0", 0x00E0, 0xF0FF⟩, ⟨"00EE", 0x00EE, 0xF0FF⟩, ⟨"1NNN", 0x1000, 0xF000⟩, ⟨"2NNN", 0x2000, 0xF000⟩,
   ⟨"3XKK", 0x3000, 0xF000⟩, ⟨"4XKK", 0x4000, 0xF000⟩, ⟨"5XY_", 0x5000, 0xF000⟩, ⟨"6XKK", 0x6000, 0xF000⟩,
   ⟨"7XKK", 0x7000, 0xF000⟩] ++
  [⟨"8XY0", 0x8000, 0xF00F⟩, ⟨"8XY1", 0x8001, 0xF00F⟩, ⟨"8XY2", 0x8002, 0xF00F⟩, ⟨"8XY3", 0x8003, 0xF00F⟩,
   ⟨"8XY4", 0x8004, 0xF00F⟩, ⟨"8XY5", 0x8005, 0xF00F⟩, ⟨"8XY6", 0x8006, 0xF00F⟩, ⟨"8XY7", 0x8007, 0xF00F⟩,
   ⟨"8XYE", 0x800E, 0xF00F⟩] ++
  [⟨"9XY_", 0x9000, 0xF000⟩, ⟨"ANNN", 0xA000, 0xF000⟩, ⟨"BNNN", 0xB000, 0xF000⟩, ⟨"CXKK", 0xC000, 0xF000⟩,
   ⟨"DXYN", 0xD000, 0xF000⟩, ⟨"EX9E", 0xE09E, 0xF0FF⟩, ⟨"EXA1", 0xE0A1, 0xF0FF⟩] ++
  [⟨"FX07", 0xF007, 0xF0FF⟩, ⟨"FX0A", 0xF00A, 0xF0FF⟩, ⟨"FX15", 0xF015, 0xF0FF⟩, ⟨"FX18", 0xF018, 0xF0FF⟩,
   ⟨"FX1E", 0xF01E, 0xF0FF⟩, ⟨"FX29", 0xF029, 0xF0FF⟩, ⟨"FX33", 0xF033, 0xF0FF⟩, ⟨"FX55", 0xF055, 0xF0FF⟩,
   ⟨"FX65", 0xF065, 0xF0FF⟩]

end Sys2Proof
end

