-- ==== Sys2Proof/Machine/ResetContents.lean ====
section
/-! DEFINITION. What the memory holds when nothing has been written since reset (10_state.md R30, 20_memory.md R42, R43), and the
default configuration (00_scope.md R6, R7). -/

namespace Sys2Proof.Machine

/-- Glyphs 0 to 3 of the conventional font, as 20_memory.md R43 prints them. PRESUMED: the spec gives the bytes from general
knowledge (93_implementation_defined.md G1). Log entry 2. -/
def fontGlyphs0 : Vector Byte 20 :=
  #v[0xF0, 0x90, 0x90, 0x90, 0xF0,  0x20, 0x60, 0x20, 0x20, 0x70,  0xF0, 0x10, 0xF0, 0x80, 0xF0,  0xF0, 0x10, 0xF0, 0x10, 0xF0]

/-- Glyphs 4 to 7. -/
def fontGlyphs4 : Vector Byte 20 :=
  #v[0x90, 0x90, 0xF0, 0x10, 0x10,  0xF0, 0x80, 0xF0, 0x10, 0xF0,  0xF0, 0x80, 0xF0, 0x90, 0xF0,  0xF0, 0x10, 0x20, 0x40, 0x40]

/-- Glyphs 8 to B. -/
def fontGlyphs8 : Vector Byte 20 :=
  #v[0xF0, 0x90, 0xF0, 0x90, 0xF0,  0xF0, 0x90, 0xF0, 0x10, 0xF0,  0xF0, 0x90, 0xF0, 0x90, 0x90,  0xE0, 0x90, 0xE0, 0x90, 0xE0]

/-- Glyphs C to F. -/
def fontGlyphsC : Vector Byte 20 :=
  #v[0xF0, 0x80, 0x80, 0x80, 0xF0,  0xE0, 0x90, 0x90, 0x90, 0xE0,  0xF0, 0x80, 0xF0, 0x80, 0xF0,  0xF0, 0x80, 0xF0, 0x80, 0x80]

/-- The default of the table `FONT[0..79]`, glyph 0 first. -/
def defaultFont : Vector Byte 80 := fontGlyphs0 ++ fontGlyphs4 ++ fontGlyphs8 ++ fontGlyphsC

/-- The spec's defaults: FONT_BASE = 0x000 (R6), SHIFT_USES_VY = false (R7), the default font. Log entry 1. -/
def defaultConfig : Config := { fontBase := 0, shiftUsesVY := false, font := defaultFont }

/-- What an address that nothing has written reads as: the font byte inside FONT_BASE .. FONT_BASE + 79, else 0x00 (R30, R32, R42). -/
def resetByte (c : Config) (a : Nat) : Byte :=
  if c.fontBase.val ≤ a then (c.font[a - c.fontBase.val]?).getD 0 else 0

end Sys2Proof.Machine
end

