-- ==== Sys2Proof/Machine/State.lean ====
section
/-! DEFINITION. The state of the machine (10_state.md), as plain data, and the state after reset (10_state.md R30). -/

namespace Sys2Proof.Machine

/-- STATUS, the run-status register (10_state.md R24). The codes 5 to 7 are never produced, so the type has no value for them (log
entry 10). `statusCode` gives the 3-bit code. -/
inductive Status where
  /-- 0 `RUNNING`: STEP fetches and executes. -/
  | running
  /-- 1 `HALTED_PC`: PC ran past the addressable range (60_exceptions.md R201). -/
  | haltedPc
  /-- 2 `FAULT_MEM`: a data access resolved to an address >= 4096 (R202). -/
  | faultMem
  /-- 3 `FAULT_STACK_OVERFLOW`: 2NNN with SP = 16 (R203). -/
  | faultStackOverflow
  /-- 4 `FAULT_STACK_UNDERFLOW`: 00EE with SP = 0 (R204). -/
  | faultStackUnderflow
  deriving DecidableEq, Repr

/-- The four abnormal outcomes of a STEP, and no other (60_exceptions.md R200): what `raise` takes. -/
inductive Abnormal where
  /-- Raised by the fetch precondition (R201). -/
  | haltPc
  /-- Raised by DXYN, FX33, FX55, FX65 (R202). -/
  | memFault
  /-- Raised by 2NNN (R203). -/
  | stackOverflow
  /-- Raised by 00EE (R204). -/
  | stackUnderflow
  deriving DecidableEq, Repr

/-- One atomic operation of the host on the block (20_memory.md R52, R53). Log entry 5. -/
inductive HostOp where
  /-- `STEP` (40_step_cycle.md R100). -/
  | step
  /-- `TICK` (60_exceptions.md R215). -/
  | tick
  /-- The host changes the key snapshot (10_state.md R22). -/
  | setKeys (keys : BitVec 16)
  /-- `RESET` (70_reset_and_hazards.md R240). -/
  | reset
  /-- `LOAD(bytes)` (70_reset_and_hazards.md R241). -/
  | load (image : List Byte)
  deriving DecidableEq, Repr

/-- Why a step stops without a next state. There is no such reason on this hardware: each of its abnormal outcomes is a state of the
machine that the spec describes (60_exceptions.md R208), so the model takes it and answers a next state. Safe. Log entry 7. -/
inductive Fault where
  deriving DecidableEq, Repr

/-- Why a step has no meaning. -/
inductive Refusal where
  /-- Raised by an arm of exec whose instruction has no meaning yet; no arm does so. Safe: the run stops. -/
  | notModelled (mnemonic : String)
  deriving DecidableEq, Repr

/-- The complete state (10_state.md R27), the configuration, the input KEYS, and the model's two own fields. -/
structure State where
  /-- V[0x0] .. V[0xF], 8 bits each (R10). -/
  v : Vector Byte 16
  /-- I, the address register (R13). -/
  i : Word
  /-- PC, the program counter (R14). -/
  pc : Word
  /-- SP, the number of return addresses on the stack, 0 to 16 (R18). -/
  sp : Fin 17
  /-- STACK[0] .. STACK[15] (R17). -/
  stack : Vector Word 16
  /-- DT, the delay timer (R19). -/
  dt : Byte
  /-- ST, the sound timer (R20). -/
  st : Byte
  /-- DISP[y][x]: 32 rows of 64 cells (R21). -/
  disp : Vector (Vector Bool 64) 32
  /-- MEM (R25): the bytes that differ from `resetByte cfg`, in canonical form (`Memory.wf`). -/
  mem : List Host.Cell
  /-- STATUS (R24). -/
  status : Status
  /-- FONT_BASE, SHIFT_USES_VY, FONT: never changed (R26). -/
  cfg : Config
  /-- KEYS, the present key snapshot; bit k is 1 when key k is pressed (R22). -/
  keys : BitVec 16
  /-- The model's own: how many bytes have been drawn from RND (R23, log entry 4). -/
  rndDraws : Nat
  /-- The model's own: the host's operations still to come, oldest first (20_memory.md R53, log entry 5). -/
  schedule : List HostOp
  deriving DecidableEq, Repr

/-- The state right after RESET (10_state.md R30) of a machine with the default configuration. `keys`, `rndDraws` and `schedule` are
DESIGN CHOICE (log entries 3, 4, 5). -/
def State.reset : State where
  v := Vector.replicate 16 0
  i := 0
  pc := 0x0200
  sp := 0
  stack := Vector.replicate 16 0
  dt := 0
  st := 0
  disp := Vector.replicate 32 (Vector.replicate 64 false)
  mem := []
  status := .running
  cfg := defaultConfig
  keys := 0
  rndDraws := 0
  schedule := []

end Sys2Proof.Machine
end

