-- ==== Sys2Proof/Machine/Ops.lean ====
section
/-! DEFINITION. The named operations on registers, the call stack, the display, memory and PC, and the one operation that takes an
abnormal outcome. Every meaning is written over these. -/

namespace Sys2Proof.Machine

/-! ## Registers (10_state.md R10, R13, R19, R20) -/

/-- `V[r]`. -/
def State.reg (s : State) (r : RegIx) : Byte := s.v[r]

/-- `V[r] <- b`. -/
def State.setReg (s : State) (r : RegIx) (b : Byte) : State := { s with v := s.v.set r b }

/-- `I <- w`: the value written is never checked (R13). -/
def State.setI (s : State) (w : Word) : State := { s with i := w }

/-- `DT <- b`. -/
def State.setDt (s : State) (b : Byte) : State := { s with dt := b }

/-- `ST <- b`. -/
def State.setSt (s : State) (b : Byte) : State := { s with st := b }

/-! ## The program counter (R14 to R16) -/

/-- `pc <- w`: no target is checked when it is written (42_control_flow.md R148). -/
def State.setPc (s : State) (w : Word) : State := { s with pc := w }

/-- The advance of every STEP that fetches (40_step_cycle.md R104). From a fetchable PC it never wraps. -/
def State.advance (s : State) : State := s.setPc (s.pc + 2)

/-- `skip`: a further 2 on the advanced PC (R109). At PC values no STEP produces the 16-bit addition wraps (log entry 9). -/
def State.skip (s : State) : State := s.setPc (s.pc + 2)

/-- `pc <- PC - 2`: undo the advance; FX0A alone does so (45_input.md R192, log entry 9). -/
def State.rewind (s : State) : State := s.setPc (s.pc - 2)

/-- `if c: skip`. -/
def State.skipIf (s : State) (c : Bool) : State := if c then s.skip else s

/-! ## Abnormal outcomes (60_exceptions.md R200 to R208) -/

/-- The STATUS an abnormal outcome leaves (R205). -/
def statusOf : Abnormal → Status
  | .haltPc => .haltedPc
  | .memFault => .faultMem
  | .stackOverflow => .faultStackOverflow
  | .stackUnderflow => .faultStackUnderflow

/-- `raise e`: STATUS takes the cause's code and nothing else changes (R208; the advance of PC has happened before, R104, and for
HaltPc it has not, R201). Nothing is saved, there is no handler, and there is no return but RESET and LOAD (R209): those two are
`State.hostReset` and `State.hostLoad` in HostOps.lean. -/
def State.raise (s : State) (e : Abnormal) : State := { s with status := statusOf e }

/-! ## The call stack (10_state.md R17, R18) -/

/-- Push: write `STACK[SP]`, then `SP <- SP + 1`; none when SP = 16, and then nothing is written (42_control_flow.md R142). -/
def State.push (s : State) (w : Word) : Option State :=
  if h : s.sp.val < 16 then
    some { s with stack := s.stack.set s.sp.val w h, sp := ⟨s.sp.val + 1, Nat.succ_lt_succ h⟩ }
  else none

/-- Pop: `SP <- SP - 1`, then read `STACK[SP]`, whose entry keeps its value; none when SP = 0 (R140). -/
def State.pop (s : State) : Option (Word × State) :=
  if h : 0 < s.sp.val then
    have hs : s.sp.val - 1 < 16 := by have := s.sp.isLt; omega
    some (s.stack[s.sp.val - 1], { s with sp := ⟨s.sp.val - 1, Nat.lt_succ_of_lt hs⟩ })
  else none

/-! ## The display (10_state.md R21; 20_memory.md R58: coordinates are always in range) -/

/-- `DISP[y][x]`. -/
def State.cell (s : State) (x : Fin 64) (y : Fin 32) : Bool := s.disp[y][x]

/-- `DISP[y][x] <- b`. -/
def State.setCell (s : State) (x : Fin 64) (y : Fin 32) (b : Bool) : State :=
  { s with disp := s.disp.set y (s.disp[y].set x b) }

/-- All 2048 cells off. -/
def State.clearDisplay (s : State) : State := { s with disp := Vector.replicate 32 (Vector.replicate 64 false) }

/-! ## Memory (10_state.md R25; 20_memory.md R44, R45) -/

/-- The listed bytes of a memory, by address. -/
abbrev Memory := List Host.Cell

/-- The byte listed at an address, if one is. -/
def Memory.lookup : Memory → Nat → Option Byte
  | [], _ => none
  | (k, b) :: m, a => if k = a then some b else Memory.lookup m a

/-- The memory without an entry at an address. -/
def Memory.erase (m : Memory) (a : Nat) : Memory := m.filter (fun c => c.1 ≠ a)

/-- A new entry before the first one of a higher address. -/
def Memory.insert : Memory → Nat → Byte → Memory
  | [], a, b => [(a, b)]
  | (k, c) :: m, a, b => if k < a then (k, c) :: Memory.insert m a b else (a, b) :: (k, c) :: m

/-- `MEM[a]`, an unlisted address reading as its reset content (R32). -/
def Memory.read (c : Config) (m : Memory) (a : Nat) : Byte := (Memory.lookup m a).getD (resetByte c a)

/-- `MEM[a] <- b`, keeping the canonical form: a byte equal to the reset content is not listed. -/
def Memory.write (c : Config) (m : Memory) (a : Nat) (b : Byte) : Memory :=
  if b = resetByte c a then Memory.erase m a else Memory.insert (Memory.erase m a) a b

/-- Canonical from address `lo` on: addresses strictly rising, below 4096, no entry equal to the reset content. -/
def Memory.wfFrom (c : Config) : Nat → Memory → Bool
  | _, [] => true
  | lo, (a, b) :: m => decide (lo ≤ a) && decide (a < memSize) && decide (b ≠ resetByte c a) && Memory.wfFrom c (a + 1) m

/-- The canonical form of a memory: equal memories are equal lists. Log entry 12. -/
def Memory.wf (c : Config) (m : Memory) : Bool := Memory.wfFrom c 0 m

/-- `MEM[a]` with no check (R25). -/
def State.memByte (s : State) (a : Nat) : Byte := Memory.read s.cfg s.mem a

/-- `MemWrite(a, 1, b)` (R45): at an address >= 4096 nothing is written. The raise that goes with it is `State.checked`, which the
meanings apply to the whole range first (R46). Log entry 16. -/
def State.writeByte (s : State) (a : Nat) (b : Byte) : State :=
  if a < memSize then { s with mem := Memory.write s.cfg s.mem a b } else s

/-! ## Fetch (40_step_cycle.md R102, R103) -/

/-- The fetch precondition: PC and PC + 1 are both below 4096. -/
def State.canFetch (s : State) : Bool := decide (s.pc.toNat ≤ 0x0FFE)

/-- `MemRead(PC, 2)`, big-endian (20_memory.md R44, R48). -/
def State.fetchWord (s : State) : Word := wordOfBytes (s.memByte s.pc.toNat) (s.memByte (s.pc.toNat + 1))

/-- A word stored big-endian at an address: how a test harness or a loader places an instruction (R48). -/
def State.placeWord (s : State) (a : Nat) (w : Word) : State :=
  (s.writeByte a (w.extractLsb' 8 8)).writeByte (a + 1) (w.extractLsb' 0 8)

end Sys2Proof.Machine
end

