-- ==== Sys2Proof/Machine/Operands.lean ====
section
/-! DEFINITION. The operand forms: the effective address and its range check (43_memory_timer.md R169, 20_memory.md R46, R47), the
shift operand (41_alu.md R128, R130), the key index (45_input.md R193), the register range (43_memory_timer.md R167), the zero
extensions (30_encoding.md R80), the random input (10_state.md R23). -/

namespace Sys2Proof.Machine

/-- The effective address of offset `r`: the integer `I + r`, with no wrap (20_memory.md R47). -/
def State.ea (s : State) (r : Nat) : Nat := s.i.toNat + r

/-- The range check of an instruction that accesses `c` bytes from I: `I + c - 1 <= 4095`; an instruction that accesses no byte makes
no check (R46). -/
abbrev State.rangeOk (s : State) (c : Nat) : Prop := c = 0 ∨ s.i.toNat + (c - 1) ≤ 4095

/-- An instruction that accesses `c` bytes from I: the whole range is checked before any effect; when it does not fit, MemFault is
raised and nothing of the effect happens (R46). -/
def State.checked (s : State) (c : Nat) (effect : State) : State :=
  if s.rangeOk c then effect else s.raise .memFault

/-- `zext_16(NNN)` (30_encoding.md R80). -/
def zextAddr (nnn : Addr12) : Word := nnn.zeroExtend 16

/-- `zext_16` of a byte. -/
def zextByte (b : Byte) : Word := b.zeroExtend 16

/-- The operand of 8XY6 and 8XYE: `V[Y]` in the legacy dialect, `V[X]` in the modern one (R128, R130). -/
def State.shiftOperand (s : State) (x y : RegIx) : Byte := if s.cfg.shiftUsesVY then s.reg y else s.reg x

/-- The registers V[0] .. V[x], in rising order (43_memory_timer.md R167, R168: `x` inclusive). -/
def regsUpTo (x : RegIx) : List RegIx := (List.finRange 16).filter (fun r => r ≤ x)

/-- The key that `V[x]` names: its low 4 bits (45_input.md R193). -/
def State.keyIndex (s : State) (x : RegIx) : Nat := (s.reg x).toNat % 16

/-- `KEYS[k]`. -/
def State.pressed (s : State) (k : Nat) : Bool := s.keys.getLsbD k

/-- The smallest k with `KEYS[k] = 1`; none when no key is pressed (45_input.md R192). -/
def State.lowestKey (s : State) : Option (Fin 16) := (List.finRange 16).find? (fun k => s.pressed k.val)

/-- The byte the input RND holds at this draw: a free value (10_state.md R23, log entry 4). -/
def State.rndByte (s : State) : Byte := Config.freeRnd s.rndDraws

/-- One draw has been made: the next one is unrelated (41_alu.md R131). -/
def State.rndDrawn (s : State) : State := { s with rndDraws := s.rndDraws + 1 }

/-- `v div 100`, the hundreds digit (43_memory_timer.md R166). -/
def hundreds (b : Byte) : Byte := BitVec.ofNat 8 (b.toNat / 100)

/-- `(v div 10) mod 10`, the tens digit. -/
def tens (b : Byte) : Byte := BitVec.ofNat 8 (b.toNat / 10 % 10)

/-- `v mod 10`, the ones digit. -/
def ones (b : Byte) : Byte := BitVec.ofNat 8 (b.toNat % 10)

end Sys2Proof.Machine
end

