-- ==== Sys2Proof/Machine/Flags.lean ====
section
/-! DEFINITION. The flag values that operations write into V[0xF] (10_state.md R11, 41_alu.md R132) and the order of writes
(10_state.md R12). -/

namespace Sys2Proof.Machine

/-- A flag is the 8-bit value 0x00 or 0x01 (10_state.md R11). -/
def flagByte (b : Bool) : Byte := if b then 1 else 0

/-- The carry of 8XY4: 1 exactly when the true sum exceeds 255 (41_alu.md R126, R132). -/
def carryFlag (a b : Byte) : Byte := flagByte (decide (255 < a.toNat + b.toNat))

/-- The not-borrow flag of `a - b`: 1 exactly when a >= b (41_alu.md R127, R129, R132). -/
def notBorrowFlag (a b : Byte) : Byte := flagByte (decide (b.toNat ≤ a.toNat))

/-- The bit a right shift by one shifts out (41_alu.md R128). -/
def shrFlag (t : Byte) : Byte := flagByte (t.getLsbD 0)

/-- The bit a left shift by one shifts out (41_alu.md R130). -/
def shlFlag (t : Byte) : Byte := flagByte (t.getLsbD 7)

/-- The result to `V[x]`, then the flag to `V[0xF]`, last (10_state.md R12). The caller computes both from pre-instruction values. -/
def State.setResultFlag (s : State) (x : RegIx) (result flag : Byte) : State := (s.setReg x result).setReg regF flag

end Sys2Proof.Machine
end

