-- ==== Sys2Proof/Machine/Alu.lean ====
section
/-! DEFINITION. Register ALU operations (41_alu.md): execute phase only; PC has already been advanced. -/

namespace Sys2Proof.Machine

/-- `6XKK` (R120): `V[X] <- KK`. -/
def execLdImm (x : RegIx) (kk : Byte) (s : State) : Host.Outcome State Fault Refusal := .next (s.setReg x kk)

/-- `7XKK` (R121): `V[X] <- (V[X] + KK) mod 256`, no flag. -/
def execAddImm (x : RegIx) (kk : Byte) (s : State) : Host.Outcome State Fault Refusal := .next (s.setReg x (s.reg x + kk))

/-- `8XY0` (R122): `V[X] <- V[Y]`. -/
def execLdReg (x y : RegIx) (s : State) : Host.Outcome State Fault Refusal := .next (s.setReg x (s.reg y))

/-- `8XY1` (R123): `V[X] <- V[X] or V[Y]`, no flag (decision D21). -/
def execOrReg (x y : RegIx) (s : State) : Host.Outcome State Fault Refusal := .next (s.setReg x (s.reg x ||| s.reg y))

/-- `8XY2` (R124): `V[X] <- V[X] and V[Y]`, no flag (decision D21). -/
def execAndReg (x y : RegIx) (s : State) : Host.Outcome State Fault Refusal := .next (s.setReg x (s.reg x &&& s.reg y))

/-- `8XY3` (R125): `V[X] <- V[X] xor V[Y]`, no flag (decision D21). -/
def execXorReg (x y : RegIx) (s : State) : Host.Outcome State Fault Refusal := .next (s.setReg x (s.reg x ^^^ s.reg y))

/-- `8XY4` (R126): the sum mod 256, then the carry. -/
def execAddReg (x y : RegIx) (s : State) : Host.Outcome State Fault Refusal :=
  .next (s.setResultFlag x (s.reg x + s.reg y) (carryFlag (s.reg x) (s.reg y)))

/-- `8XY5` (R127): `V[X] - V[Y]` mod 256, then not-borrow. -/
def execSubReg (x y : RegIx) (s : State) : Host.Outcome State Fault Refusal :=
  .next (s.setResultFlag x (s.reg x - s.reg y) (notBorrowFlag (s.reg x) (s.reg y)))

/-- `8XY6` (R128): the operand div 2, then the bit shifted out. -/
def execShrReg (x y : RegIx) (s : State) : Host.Outcome State Fault Refusal :=
  .next (s.setResultFlag x (s.shiftOperand x y >>> 1) (shrFlag (s.shiftOperand x y)))

/-- `8XY7` (R129): `V[Y] - V[X]` mod 256, then not-borrow. -/
def execSubnReg (x y : RegIx) (s : State) : Host.Outcome State Fault Refusal :=
  .next (s.setResultFlag x (s.reg y - s.reg x) (notBorrowFlag (s.reg y) (s.reg x)))

/-- `8XYE` (R130): the operand times 2 mod 256, then the bit shifted out. -/
def execShlReg (x y : RegIx) (s : State) : Host.Outcome State Fault Refusal :=
  .next (s.setResultFlag x (s.shiftOperand x y <<< 1) (shlFlag (s.shiftOperand x y)))

/-- `V[X] <- RND and KK` for one value of the input RND (R131). -/
def State.maskedRnd (s : State) (x : RegIx) (kk rnd : Byte) : State := s.rndDrawn.setReg x (rnd &&& kk)

/-- `CXKK` (R131): RND is sampled exactly once. -/
def execRnd (x : RegIx) (kk : Byte) (s : State) : Host.Outcome State Fault Refusal := .next (s.maskedRnd x kk s.rndByte)

end Sys2Proof.Machine
end

