-- ==== Sys2Proof/Machine/ControlFlow.lean ====
section
/-! DEFINITION. Control-flow operations (42_control_flow.md) and the unmapped no-op (40_step_cycle.md R107): execute phase only; PC
already holds the address of the instruction plus 2 (10_state.md R15). -/

namespace Sys2Proof.Machine

/-- `00EE` (R140): pop into PC, or StackUnderflow when SP = 0. -/
def execRet (s : State) : Host.Outcome State Fault Refusal :=
  .next (match s.pop with
    | some (target, s') => s'.setPc target
    | none => s.raise .stackUnderflow)

/-- `1NNN` (R141): `pc <- zext_16(NNN)`. -/
def execJp (nnn : Addr12) (s : State) : Host.Outcome State Fault Refusal := .next (s.setPc (zextAddr nnn))

/-- `2NNN` (R142): push the advanced PC and jump, or StackOverflow when SP = 16. -/
def execCall (nnn : Addr12) (s : State) : Host.Outcome State Fault Refusal :=
  .next (match s.push s.pc with
    | some s' => s'.setPc (zextAddr nnn)
    | none => s.raise .stackOverflow)

/-- `3XKK` (R143): skip if `V[X] = KK`. -/
def execSeImm (x : RegIx) (kk : Byte) (s : State) : Host.Outcome State Fault Refusal := .next (s.skipIf (s.reg x == kk))

/-- `4XKK` (R144): skip if `V[X] != KK`. -/
def execSneImm (x : RegIx) (kk : Byte) (s : State) : Host.Outcome State Fault Refusal := .next (s.skipIf (s.reg x != kk))

/-- `5XY_` (R145): skip if `V[X] = V[Y]`. -/
def execSeReg (x y : RegIx) (s : State) : Host.Outcome State Fault Refusal := .next (s.skipIf (s.reg x == s.reg y))

/-- `9XY_` (R146): skip if `V[X] != V[Y]`. -/
def execSneReg (x y : RegIx) (s : State) : Host.Outcome State Fault Refusal := .next (s.skipIf (s.reg x != s.reg y))

/-- `BNNN` (R147): `pc <- zext_16(NNN) + V[0x0]`, always register 0, never reduced mod 4096. -/
def execJpV0 (nnn : Addr12) (s : State) : Host.Outcome State Fault Refusal := .next (s.setPc (zextAddr nnn + zextByte (s.reg 0)))

/-- Every unmapped word (40_step_cycle.md R107): nothing in the execute phase. -/
def execNop (s : State) : Host.Outcome State Fault Refusal := .next s

end Sys2Proof.Machine
end

