-- ==== Sys2Proof/Machine/Display.lean ====
section
/-! DEFINITION. Display operations (44_display.md): clear, and the XOR sprite draw as the loop of R181. -/

namespace Sys2Proof.Machine

/-- `00E0` (R180): all cells off; V[0xF] not written. -/
def execCls (s : State) : Host.Outcome State Fault Refusal := .next s.clearDisplay

/-- One 1 bit of a sprite at a cell: a collision when the cell is on, then the cell is toggled. -/
def State.drawPixel (s : State) (px : Fin 64) (py : Fin 32) : State :=
  (if s.cell px py then s.setReg regF 1 else s).setCell px py (!s.cell px py)

/-- Column `c` of sprite row `r` of byte `b`: bit 7 - c; each pixel wraps on its own (mod 64, mod 32). -/
def State.drawBit (s : State) (b : Byte) (x0 y0 r c : Nat) : State :=
  if b.getLsbD (7 - c) then s.drawPixel (Fin.ofNat 64 (x0 + c)) (Fin.ofNat 32 (y0 + r)) else s

/-- Sprite row `r`: the byte at I + r, its 8 columns from the left. -/
def State.drawRow (s : State) (x0 y0 r : Nat) : State :=
  (List.range 8).foldl (fun t c => t.drawBit (s.memByte (s.ea r)) x0 y0 r c) s

/-- The `n` rows of a sprite, the first at row `y0`. -/
def State.drawSprite (s : State) (x0 y0 n : Nat) : State :=
  (List.range n).foldl (fun t r => t.drawRow x0 y0 r) s

/-- The sprite's origin: `V[X] mod 64`, `V[Y] mod 32` (R181). -/
def State.spriteOrigin (s : State) (x y : RegIx) : Nat × Nat := ((s.reg x).toNat % 64, (s.reg y).toNat % 32)

/-- `DXYN` (R181): the origin is read first (decision D22), the range is checked, the flag is cleared, the rows are drawn. -/
def execDrw (x y : RegIx) (n : Nibble) (s : State) : Host.Outcome State Fault Refusal :=
  .next (s.checked n.toNat ((s.setReg regF 0).drawSprite (s.spriteOrigin x y).1 (s.spriteOrigin x y).2 n.toNat))

end Sys2Proof.Machine
end

