-- ==== Sys2Proof/Machine/Input.lean ====
section
/-! DEFINITION. Keypad operations (45_input.md): the snapshot KEYS is sampled once, here. -/

namespace Sys2Proof.Machine

/-- `EX9E` (R190): skip if the key that V[X] names is pressed. -/
def execSkp (x : RegIx) (s : State) : Host.Outcome State Fault Refusal := .next (s.skipIf (s.pressed (s.keyIndex x)))

/-- `EXA1` (R191): skip if the key that V[X] names is not pressed. -/
def execSknp (x : RegIx) (s : State) : Host.Outcome State Fault Refusal := .next (s.skipIf (!s.pressed (s.keyIndex x)))

/-- `FX0A` (R192): with no key pressed the advance is undone, so the next STEP executes it again; else V[X] takes the smallest pressed
key. -/
def execLdVxKey (x : RegIx) (s : State) : Host.Outcome State Fault Refusal :=
  .next (match s.lowestKey with
    | some k => s.setReg x (BitVec.ofNat 8 k.val)
    | none => s.rewind)

end Sys2Proof.Machine
end

