-- ==== Sys2Proof/Machine/MemoryTimer.lean ====
section
/-! DEFINITION. Address-register, timer, BCD and block load/store operations (43_memory_timer.md): execute phase only. -/

namespace Sys2Proof.Machine

/-- `ANNN` (R160): `I <- zext_16(NNN)`. -/
def execLdI (nnn : Addr12) (s : State) : Host.Outcome State Fault Refusal := .next (s.setI (zextAddr nnn))

/-- `FX07` (R161): `V[X] <- DT`. -/
def execLdVxDt (x : RegIx) (s : State) : Host.Outcome State Fault Refusal := .next (s.setReg x s.dt)

/-- `FX15` (R162): `DT <- V[X]`. -/
def execLdDtVx (x : RegIx) (s : State) : Host.Outcome State Fault Refusal := .next (s.setDt (s.reg x))

/-- `FX18` (R163): `ST <- V[X]`. -/
def execLdStVx (x : RegIx) (s : State) : Host.Outcome State Fault Refusal := .next (s.setSt (s.reg x))

/-- `FX1E` (R164): `I <- (I + V[X]) mod 65536`, no flag, no check. -/
def execAddI (x : RegIx) (s : State) : Host.Outcome State Fault Refusal := .next (s.setI (s.i + zextByte (s.reg x)))

/-- `FX29` (R165): `I <- FONT_BASE + 5 * V[X]`, V[X] not masked. -/
def execLdFont (x : RegIx) (s : State) : Host.Outcome State Fault Refusal :=
  .next (s.setI (BitVec.ofNat 16 (s.cfg.fontBase.val + 5 * (s.reg x).toNat)))

/-- The three digit stores of FX33, hundreds at I. -/
def State.writeDigits (s : State) (b : Byte) : State :=
  ((s.writeByte (s.ea 0) (hundreds b)).writeByte (s.ea 1) (tens b)).writeByte (s.ea 2) (ones b)

/-- `FX33` (R166): the decimal digits of V[X] to I, I + 1, I + 2. -/
def execStoreBcd (x : RegIx) (s : State) : Host.Outcome State Fault Refusal := .next (s.checked 3 (s.writeDigits (s.reg x)))

/-- `for i in 0 .. X: MemWrite(I + i, 1, V[i])`. -/
def State.writeRegs (s : State) (x : RegIx) : State :=
  (regsUpTo x).foldl (fun t r => t.writeByte (t.ea r.val) (t.reg r)) s

/-- `FX55` (R167): V[0] .. V[X] to memory from I; I unchanged (decision D20). -/
def execStoreRegs (x : RegIx) (s : State) : Host.Outcome State Fault Refusal := .next (s.checked (x.val + 1) (s.writeRegs x))

/-- `for i in 0 .. X: V[i] <- MemRead(I + i, 1)`. -/
def State.readRegs (s : State) (x : RegIx) : State :=
  (regsUpTo x).foldl (fun t r => t.setReg r (t.memByte (t.ea r.val))) s

/-- `FX65` (R168): V[0] .. V[X] from memory from I; I unchanged (decision D20). -/
def execLoadRegs (x : RegIx) (s : State) : Host.Outcome State Fault Refusal := .next (s.checked (x.val + 1) (s.readRegs x))

end Sys2Proof.Machine
end

