-- ==== Sys2Proof/Machine/HostOps.lean ====
section
/-! DEFINITION. The host's operations other than STEP: TICK (60_exceptions.md R215), a change of KEYS (10_state.md R22), RESET and LOAD
(70_reset_and_hazards.md R240, R241). Each is atomic (20_memory.md R52). -/

namespace Sys2Proof.Machine

/-- A timer after one tick: one less, stopping at zero (R215; that it stops at zero is general knowledge, log entry 14). -/
def tickTimer (b : Byte) : Byte := if b = 0 then 0 else b - 1

/-- `TICK`, whatever STATUS is (R215). -/
def State.hostTick (s : State) : State := { s with dt := tickTimer s.dt, st := tickTimer s.st }

/-- The host drives a new key snapshot (10_state.md R22). -/
def State.hostSetKeys (s : State) (keys : BitVec 16) : State := { s with keys := keys }

/-- `RESET` (R240): every piece of state to its reset value; the configuration, the input KEYS and the model's own fields are not touched. -/
def State.hostReset (s : State) : State :=
  { State.reset with cfg := s.cfg, keys := s.keys, rndDraws := s.rndDraws, schedule := s.schedule }

/-- The bytes of an image, the first at address `a`. -/
def State.writeImage : State → Nat → List Byte → State
  | s, _, [] => s
  | s, a, b :: bs => State.writeImage (s.writeByte a b) (a + 1) bs

/-- What LOAD returns to its caller; it sets no STATUS (R241, 60_exceptions.md R212). -/
inductive LoadResult where
  | loadOk
  | loadTooLarge
  deriving DecidableEq, Repr

/-- The result of `LOAD(bytes)`: more than 3584 bytes are refused. -/
def loadResult (image : List Byte) : LoadResult := if maxImage < image.length then .loadTooLarge else .loadOk

/-- `LOAD(bytes)` (R241): refused with no state change, or RESET and then the bytes verbatim from 0x200. -/
def State.hostLoad (s : State) (image : List Byte) : State :=
  match loadResult image with
  | .loadTooLarge => s
  | .loadOk => s.hostReset.writeImage progStart image

end Sys2Proof.Machine
end

