-- ==== Sys2Proof/Machine/Cycle.lean ====
section
/-! DEFINITION. The step cycle of the core (40_step_cycle.md R100 to R106), its result (R108), and the order of the host's operations
(20_memory.md R53). -/

namespace Sys2Proof.Machine

/-- `STEP`: status gate (R101), fetch precondition (R102), fetch (R103), advance (R104), decode (R105), execute (R106). -/
def coreStep (s : State) : Host.Outcome State Fault Refusal :=
  if s.status ≠ .running then .next s
  else if s.canFetch then exec (decode s.fetchWord) s.advance
  else .next (s.raise .haltPc)

/-- The cause a fatal error reports (R108). -/
inductive FaultCause where
  | mem
  | stackOverflow
  | stackUnderflow
  deriving DecidableEq, Repr

/-- What a STEP returns: an output, no state (R108). -/
inductive StepResult where
  | ok
  | needsInput
  | halted
  | fault (cause : FaultCause)
  deriving DecidableEq, Repr

/-- The result that corresponds to a STATUS (R101, R108). -/
def resultOfStatus : Status → StepResult
  | .running => .ok
  | .haltedPc => .halted
  | .faultMem => .fault .mem
  | .faultStackOverflow => .fault .stackOverflow
  | .faultStackUnderflow => .fault .stackUnderflow

/-- Is this FX0A with no key pressed (45_input.md R192)? -/
def awaitsKey (i : Instr) (s : State) : Bool :=
  match i with
  | .ldVxKey _ => s.lowestKey.isNone
  | _ => false

/-- Would a STEP of this state be an FX0A that finds no key? -/
def State.awaitsInput (s : State) : Bool :=
  decide (s.status = .running) && s.canFetch && awaitsKey (decode s.fetchWord) s

/-- The result of the STEP that goes from `s` to `t` (R108). -/
def resultFor (s t : State) : StepResult := if s.awaitsInput then .needsInput else resultOfStatus t.status

/-- The result a STEP of this state returns (R108); none only where the STEP has no next state. Log entry 8. -/
def coreResult (s : State) : Option StepResult :=
  match coreStep s with
  | .next t => some (resultFor s t)
  | .fault _ => none
  | .refused _ => none

/-- One operation of the total order (20_memory.md R53): the oldest of the schedule; with none left the host issues STEP. Log entry 5. -/
def nextOperation (s : State) : Host.Outcome State Fault Refusal :=
  match s.schedule with
  | [] => coreStep s
  | .step :: rest => coreStep { s with schedule := rest }
  | .tick :: rest => .next (State.hostTick { s with schedule := rest })
  | .setKeys keys :: rest => .next (State.hostSetKeys { s with schedule := rest } keys)
  | .reset :: rest => .next (State.hostReset { s with schedule := rest })
  | .load image :: rest => .next (State.hostLoad { s with schedule := rest } image)

/-- A schedule whose next operation is a STEP: unchanged where it is so already. -/
def scheduleStep : List HostOp → List HostOp
  | [] => []
  | .step :: rest => .step :: rest
  | ops => .step :: ops

/-- The state made ready to fetch: RUNNING, a fetchable PC (0x200 where it was not), a STEP next. Log entry 6. -/
def State.readyToFetch (s : State) : State :=
  { s with status := .running, pc := if s.canFetch then s.pc else 0x0200, schedule := scheduleStep s.schedule }

end Sys2Proof.Machine
end

