-- ==== Sys2Proof/Machine/Step.lean ====
section
/-! DEFINITION. One step of the machine, and an instruction placed where the next step fetches it. -/

namespace Sys2Proof.Machine

/-- One atomic operation: of the core, or of the host that the schedule names next (20_memory.md R52, R53). -/
def step (s : State) : Host.Outcome State Fault Refusal := nextOperation s

/-- The state with an instruction, its bits numbered as spec/opcode_table.json numbers them, stored big-endian at PC, and the next
operation a STEP that fetches it. Log entry 6. -/
def State.withFetchWord (s : State) (nbits w : Nat) : State :=
  s.readyToFetch.placeWord s.readyToFetch.pc.toNat (tableWord nbits w)

end Sys2Proof.Machine
end

