-- ==== Sys2Proof/Machine/Views.lean ====
section
/-! DEFINITION. The read-only views the host has between operations: the register view (10_state.md R28), the framebuffer view
(44_display.md R183), and the codes of STATUS (10_state.md R24). Reading them has no side effect. -/

namespace Sys2Proof.Machine

/-- The 3-bit code of STATUS (R24, R205). -/
def statusCode : Status → BitVec 3
  | .running => 0
  | .haltedPc => 1
  | .faultMem => 2
  | .faultStackOverflow => 3
  | .faultStackUnderflow => 4

/-- What the register view shows; the configuration and the inputs are not in it (R26, R28). -/
structure RegisterView where
  v : Vector Byte 16
  pc : Word
  i : Word
  sp : Fin 17
  stack : Vector Word 16
  dt : Byte
  st : Byte
  status : BitVec 3
  mem : Vector Byte 4096
  deriving DecidableEq, Repr

/-- The register view of a state. -/
def State.registerView (s : State) : RegisterView :=
  { v := s.v, pc := s.pc, i := s.i, sp := s.sp, stack := s.stack, dt := s.dt, st := s.st, status := statusCode s.status,
    mem := Vector.ofFn (fun a => s.memByte a.val) }

/-- The framebuffer view: the 2048 cells in row-major order, row 0 first, leftmost cell first (R183, decision D23). -/
def State.framebuffer (s : State) : Vector Bool 2048 :=
  Vector.ofFn (fun k => s.cell (Fin.ofNat 64 k.val) (Fin.ofNat 32 (k.val / 64)))

end Sys2Proof.Machine
end

