-- ==== Sys2Proof/Safety.lean ====
section
/-! DEFINITION. The terms claims use: the parts of a state, what a step may change, the invariant, and the ends of a run. -/

namespace Sys2Proof.Machine

/-- One part of a state, as fine as the spec names them: a register, a byte of memory, a cell, a stack entry. -/
inductive Part where
  | reg (r : RegIx)
  | i
  | pc
  | sp
  | stackEntry (k : Fin 16)
  | dt
  | st
  | cell (x : Fin 64) (y : Fin 32)
  | memByte (a : Nat)
  | status
  | cfg
  | keys
  | rndDraws
  | schedule
  deriving DecidableEq, Repr

/-- Does this part hold the same value in both states? Memory is compared through the read of one byte. -/
def Part.Same (p : Part) (s t : State) : Prop :=
  match p with
  | .reg r => t.reg r = s.reg r
  | .i => t.i = s.i
  | .pc => t.pc = s.pc
  | .sp => t.sp = s.sp
  | .stackEntry k => t.stack[k] = s.stack[k]
  | .dt => t.dt = s.dt
  | .st => t.st = s.st
  | .cell x y => t.cell x y = s.cell x y
  | .memByte a => t.memByte a = s.memByte a
  | .status => t.status = s.status
  | .cfg => t.cfg = s.cfg
  | .keys => t.keys = s.keys
  | .rndDraws => t.rndDraws = s.rndDraws
  | .schedule => t.schedule = s.schedule

/-- The frame: every part outside `written` is the same in `t` as in `s`. -/
def OnlyChanges (written : Part → Prop) (s t : State) : Prop := ∀ p : Part, ¬ written p → p.Same s t

/-- The next operation is a STEP that fetches: RUNNING, a fetchable PC, no host operation pending before it. -/
structure Fetches (s : State) : Prop where
  noHostOp : s.schedule = []
  running : s.status = .running
  inRange : s.pc.toNat ≤ 0x0FFE

/-- The invariant of 10_state.md R31 (what the types of the fields do not already say), with memory in canonical form. -/
structure Inv (s : State) : Prop where
  pcBound : s.pc.toNat ≤ 0x10FE
  stackBound : ∀ k : Fin 16, s.stack[k].toNat ≤ 0x1000
  memCanonical : Memory.wf s.cfg s.mem = true

/-- The run ended in halt (70_reset_and_hazards.md R243 (1)). -/
def EndedInHalt (s : State) : Prop := s.status = .haltedPc

/-- The run has gone wrong (R243 (2)). -/
def GoneWrong (s : State) : Prop :=
  s.status = .faultMem ∨ s.status = .faultStackOverflow ∨ s.status = .faultStackUnderflow

/-- The run is parked: RUNNING, at a jump to itself (R243 (3)). -/
def Parked (s : State) : Prop :=
  s.status = .running ∧ s.pc.toNat ≤ 0x0FFE ∧ ∃ nnn : Addr12, decode s.fetchWord = .jp nnn ∧ nnn.toNat = s.pc.toNat

/-- One step of the machine leads from `s` to `t`. -/
def StepsTo (s t : State) : Prop := step s = .next t

/-- The machine's registers, stack, display and STATUS hold the values of 10_state.md R30. -/
structure RegistersReset (s : State) : Prop where
  v : ∀ r : RegIx, s.reg r = 0
  i : s.i = 0
  pc : s.pc = 0x0200
  sp : s.sp = 0
  stack : ∀ k : Fin 16, s.stack[k] = 0
  dt : s.dt = 0
  st : s.st = 0
  disp : ∀ (x : Fin 64) (y : Fin 32), s.cell x y = false
  status : s.status = .running

/-- The byte at an address is what 20_memory.md R42 puts there at reset: the font inside its 80 bytes, else zero. -/
structure ByteReset (s : State) (a : Nat) : Prop where
  font : ∀ k : Fin 80, a = s.cfg.fontBase.val + k.val → s.memByte a = s.cfg.font[k]
  zero : (a < s.cfg.fontBase.val ∨ s.cfg.fontBase.val + 80 ≤ a) → s.memByte a = 0

/-- The instruction takes the abnormal outcome whose status this is: STATUS is set and nothing else changes (60_exceptions.md R208). -/
def EndsInFault (i : Instr) (s : State) (cause : Status) : Prop :=
  ∃ t, exec i s = .next t ∧ t.status = cause ∧ OnlyChanges (fun p => p = .status) s t

/-- The cell is hit by a 1 bit of the sprite of `n` rows at I whose origin is column `x0`, row `y0` (the set S of 44_display.md R182). -/
def SpriteHits (s : State) (x0 y0 n : Nat) (px : Fin 64) (py : Fin 32) : Prop :=
  ∃ r, r < n ∧ ∃ c, c < 8 ∧ (s.memByte (s.i.toNat + r)).getLsbD (7 - c) = true ∧
    px.val = (x0 + c) % 64 ∧ py.val = (y0 + r) % 32

/-- The same state in one of the two shift dialects (00_scope.md R7). -/
def State.withDialect (s : State) (usesVY : Bool) : State := { s with cfg := { s.cfg with shiftUsesVY := usesVY } }

/-- The operations that write the flag into V[0xF], exactly as 10_state.md R11 lists them. -/
def WritesFlag : Instr → Prop
  | .addReg _ _ | .subReg _ _ | .subnReg _ _ | .shrReg _ _ | .shlReg _ _ | .drw _ _ _ => True
  | _ => False

/-- The registers an instruction names as its explicit destination (10_state.md R29, column "written by"). -/
def NamesDestination (r : RegIx) : Instr → Prop
  | .ldImm x _ | .addImm x _ | .ldReg x _ | .orReg x _ | .andReg x _ | .xorReg x _ | .addReg x _ | .subReg x _ | .shrReg x _
  | .subnReg x _ | .shlReg x _ | .rnd x _ | .ldVxDt x | .ldVxKey x => r = x
  | .loadRegs x => r ≤ x
  | _ => False

end Sys2Proof.Machine
end

