-- ==== Sys2Proof/Certificates/Slice0/Obligations.lean ====
section
/-! DEFINITION. The statements for the provers. Each docstring names the rule of spec/ it formalises, or the sections it rests on and
the log entry or the spec's own decision (92_eei_decisions.md D<n>) behind it. -/

section
open Sys2Proof Sys2Proof.Machine

/-! ## Register ALU (41_alu.md) -/

/-- R120 and R122: 6XKK writes KK to V[X]; 8XY0 copies V[Y] to V[X]; nothing else changes. -/
def Obligations.RegisterLoadsWriteOperand : Prop :=
  ∀ (s : State) (x y : RegIx) (kk : Byte),
    (∃ t, exec (.ldImm x kk) s = .next t ∧ t.reg x = kk ∧ OnlyChanges (fun p => p = .reg x) s t) ∧
    (∃ t, exec (.ldReg x y) s = .next t ∧ t.reg x = s.reg y ∧ OnlyChanges (fun p => p = .reg x) s t)

/-- R121: 7XKK adds KK to V[X] modulo 256; no flag: V[0xF] changes only as the destination. -/
def Obligations.AddImmediateWrapsWithoutFlag : Prop :=
  ∀ (s : State) (x : RegIx) (kk : Byte),
    ∃ t, exec (.addImm x kk) s = .next t ∧ (t.reg x).toNat = ((s.reg x).toNat + kk.toNat) % 256 ∧
      OnlyChanges (fun p => p = .reg x) s t

/-- 41_alu.md section 3: OR, AND and XOR act bit by bit on V[X] and V[Y]. That V[0xF] is not written is the spec's decision D21. -/
def Obligations.LogicIsBitwiseWithoutFlag : Prop :=
  ∀ (s : State) (x y : RegIx),
    (∃ t, exec (.orReg x y) s = .next t ∧
      (∀ k : Fin 8, (t.reg x).getLsbD k = true ↔ ((s.reg x).getLsbD k = true ∨ (s.reg y).getLsbD k = true)) ∧
      OnlyChanges (fun p => p = .reg x) s t) ∧
    (∃ t, exec (.andReg x y) s = .next t ∧
      (∀ k : Fin 8, (t.reg x).getLsbD k = true ↔ ((s.reg x).getLsbD k = true ∧ (s.reg y).getLsbD k = true)) ∧
      OnlyChanges (fun p => p = .reg x) s t) ∧
    (∃ t, exec (.xorReg x y) s = .next t ∧
      (∀ k : Fin 8, (t.reg x).getLsbD k = true ↔ ¬ ((s.reg x).getLsbD k = (s.reg y).getLsbD k)) ∧
      OnlyChanges (fun p => p = .reg x) s t)

/-- R126: 8XY4 leaves the carry of the old operands in V[0xF], also when X = 0xF, and the sum modulo 256 in any other V[X]. -/
def Obligations.AddRegistersWritesCarryLast : Prop :=
  ∀ (s : State) (x y : RegIx),
    ∃ t, exec (.addReg x y) s = .next t ∧
      (x ≠ 0xF → (t.reg x).toNat = ((s.reg x).toNat + (s.reg y).toNat) % 256) ∧
      t.reg 0xF = (if (s.reg x).toNat + (s.reg y).toNat > 255 then 1 else 0) ∧
      OnlyChanges (fun p => p = .reg x ∨ p = .reg 0xF) s t

/-- R127 and R129: 8XY5 is V[X] - V[Y], 8XY7 is V[Y] - V[X], modulo 256 over the integers, with the not-borrow flag of the old operands
written last. -/
def Obligations.SubtractionsWriteNotBorrowLast : Prop :=
  ∀ (s : State) (x y : RegIx),
    (∃ t, exec (.subReg x y) s = .next t ∧
      (x ≠ 0xF → ((t.reg x).toNat : Int) = (((s.reg x).toNat : Int) - ((s.reg y).toNat : Int)) % 256) ∧
      t.reg 0xF = (if (s.reg x).toNat ≥ (s.reg y).toNat then 1 else 0) ∧
      OnlyChanges (fun p => p = .reg x ∨ p = .reg 0xF) s t) ∧
    (∃ t, exec (.subnReg x y) s = .next t ∧
      (x ≠ 0xF → ((t.reg x).toNat : Int) = (((s.reg y).toNat : Int) - ((s.reg x).toNat : Int)) % 256) ∧
      t.reg 0xF = (if (s.reg y).toNat ≥ (s.reg x).toNat then 1 else 0) ∧
      OnlyChanges (fun p => p = .reg x ∨ p = .reg 0xF) s t)

/-- 41_alu.md section 3, decision D13: 8XY6 and 8XYE shift V[X] in the modern dialect and V[Y] in the legacy one, by one; the bit
shifted out ends in V[0xF]. -/
def Obligations.ShiftsFollowTheDialect : Prop :=
  ∀ (s : State) (x y : RegIx) (operand : Byte), operand = (if s.cfg.shiftUsesVY = true then s.reg y else s.reg x) →
    (∃ t, exec (.shrReg x y) s = .next t ∧
      (x ≠ 0xF → (t.reg x).toNat = operand.toNat / 2) ∧ (t.reg 0xF).toNat = operand.toNat % 2 ∧
      OnlyChanges (fun p => p = .reg x ∨ p = .reg 0xF) s t) ∧
    (∃ t, exec (.shlReg x y) s = .next t ∧
      (x ≠ 0xF → (t.reg x).toNat = operand.toNat * 2 % 256) ∧ (t.reg 0xF).toNat = operand.toNat / 128 ∧
      OnlyChanges (fun p => p = .reg x ∨ p = .reg 0xF) s t)

/-- 70_reset_and_hazards.md section 4 (R252; the toggle itself is the spec's decision D13): the two dialects give the same registers
where V[Y] equals V[X] (so also where X = Y), and for every X other than Y there are states where they differ. -/
def Obligations.ShiftDialectsAgreeOnEqualOperands : Prop :=
  (∀ (s : State) (x y : RegIx) (i : Instr), i = .shrReg x y ∨ i = .shlReg x y → s.reg y = s.reg x →
    ∃ t u, exec i (s.withDialect false) = .next t ∧ exec i (s.withDialect true) = .next u ∧ ∀ r, t.reg r = u.reg r) ∧
  (∀ (x y : RegIx) (i : Instr), i = .shrReg x y ∨ i = .shlReg x y → x ≠ y →
    ∃ s t u : State, exec i (s.withDialect false) = .next t ∧ exec i (s.withDialect true) = .next u ∧ ∃ r, t.reg r ≠ u.reg r)

/-- 41_alu.md section 4, decision D12, log entry 4: CXKK takes one draw, V[X] is that free byte AND KK, for every value of the draw; no
bit is set where KK has 0. -/
def Obligations.RandomByteIsMaskedAndDrawnOnce : Prop :=
  ∀ (s : State) (x : RegIx) (kk : Byte),
    ∃ t, exec (.rnd x kk) s = .next t ∧ t.reg x = Config.freeRnd s.rndDraws &&& kk ∧
      (∀ k : Fin 8, kk.getLsbD k = false → (t.reg x).getLsbD k = false) ∧ t.rndDraws = s.rndDraws + 1 ∧
      OnlyChanges (fun p => p = .reg x ∨ p = .rndDraws) s t

/-! ## Control flow (42_control_flow.md) -/

/-- R141: 1NNN overwrites PC with NNN. -/
def Obligations.JumpOverwritesPc : Prop :=
  ∀ (s : State) (nnn : Addr12),
    ∃ t, exec (.jp nnn) s = .next t ∧ t.pc.toNat = nnn.toNat ∧ OnlyChanges (fun p => p = .pc) s t

/-- 42_control_flow.md section 4, decision D29: BNNN sets PC to the exact sum NNN + V[0x0], with no reduction. -/
def Obligations.IndexedJumpAddsRegisterZero : Prop :=
  ∀ (s : State) (nnn : Addr12),
    ∃ t, exec (.jpV0 nnn) s = .next t ∧ t.pc.toNat = nnn.toNat + (s.reg 0).toNat ∧ OnlyChanges (fun p => p = .pc) s t

/-- 42_control_flow.md section 2, decisions D7 and D8: 2NNN with SP < 16 pushes the advanced PC and jumps; one stack entry changes. -/
def Obligations.CallPushesAdvancedPc : Prop :=
  ∀ (s : State) (nnn : Addr12) (h : s.sp.val < 16),
    ∃ t, exec (.call nnn) s = .next t ∧ t.stack[s.sp.val] = s.pc ∧ t.sp.val = s.sp.val + 1 ∧ t.pc.toNat = nnn.toNat ∧
      OnlyChanges (fun p => p = .pc ∨ p = .sp ∨ p = .stackEntry ⟨s.sp.val, h⟩) s t

/-- 42_control_flow.md section 2, decisions D7 and D8: 00EE with SP > 0 pops the entry below SP into PC; the entry keeps its value. -/
def Obligations.ReturnPopsIntoPc : Prop :=
  ∀ (s : State) (ign : Nibble) (k : Fin 16), s.sp.val = k.val + 1 →
    ∃ t, exec (.ret ign) s = .next t ∧ t.pc = s.stack[k] ∧ t.sp.val = k.val ∧
      OnlyChanges (fun p => p = .pc ∨ p = .sp) s t

/-- 60_exceptions.md section 1, decision D8: 2NNN on a full stack and 00EE on an empty one set STATUS and change nothing else. -/
def Obligations.StackBoundsFault : Prop :=
  ∀ (s : State) (nnn : Addr12) (ign : Nibble),
    (s.sp.val = 16 → EndsInFault (.call nnn) s .faultStackOverflow) ∧
    (s.sp.val = 0 → EndsInFault (.ret ign) s .faultStackUnderflow)

/-- 42_control_flow.md section 2 (the round trip of 00EE): a STEP of 2NNN and then a STEP of 00EE leave PC at the value it held right
after the call's fetch, and SP as it was. -/
def Obligations.CallThenReturnResumes : Prop :=
  ∀ (s : State) (nnn : Addr12) (ign : Nibble) (h : s.sp.val < 16), Fetches s → decode s.fetchWord = .call nnn →
    nnn.toNat ≤ 0x0FFE → decode (wordOfBytes (s.memByte nnn.toNat) (s.memByte (nnn.toNat + 1))) = .ret ign →
    ∃ t u, step s = .next t ∧ step t = .next u ∧ t.pc.toNat = nnn.toNat ∧ u.pc.toNat = s.pc.toNat + 2 ∧ u.sp = s.sp ∧
      OnlyChanges (fun p => p = .pc ∨ p = .stackEntry ⟨s.sp.val, h⟩) s u

/-- R143 and R144: 3XKK skips exactly when V[X] = KK, 4XKK exactly when it differs; a skip adds 2 to the advanced PC. -/
def Obligations.ImmediateSkipsAreComplements : Prop :=
  ∀ (s : State) (x : RegIx) (kk : Byte),
    ∃ t u, exec (.seImm x kk) s = .next t ∧ exec (.sneImm x kk) s = .next u ∧
      t.pc = (if s.reg x = kk then s.pc + 2 else s.pc) ∧ u.pc = (if s.reg x = kk then s.pc else s.pc + 2) ∧
      OnlyChanges (fun p => p = .pc) s t ∧ OnlyChanges (fun p => p = .pc) s u

/-- 42_control_flow.md section 3, decision D17 (the low nibble is ignored): 5XY_ skips exactly when V[X] = V[Y], 9XY_ exactly when they
differ, whatever the low nibble is. -/
def Obligations.RegisterSkipsAreComplements : Prop :=
  ∀ (s : State) (x y : RegIx) (n : Nibble),
    ∃ t u, exec (.seReg x y n) s = .next t ∧ exec (.sneReg x y n) s = .next u ∧
      t.pc = (if s.reg x = s.reg y then s.pc + 2 else s.pc) ∧ u.pc = (if s.reg x = s.reg y then s.pc else s.pc + 2) ∧
      OnlyChanges (fun p => p = .pc) s t ∧ OnlyChanges (fun p => p = .pc) s u

/-! ## Address register, timers, memory (43_memory_timer.md) -/

/-- R160: ANNN writes NNN, zero-extended, to I. -/
def Obligations.LoadAddressWritesI : Prop :=
  ∀ (s : State) (nnn : Addr12),
    ∃ t, exec (.ldI nnn) s = .next t ∧ t.i.toNat = nnn.toNat ∧ OnlyChanges (fun p => p = .i) s t

/-- R161, R162, R163: FX07 reads DT, FX15 writes DT, FX18 writes ST, and each changes nothing else. -/
def Obligations.TimerMoves : Prop :=
  ∀ (s : State) (x : RegIx),
    (∃ t, exec (.ldVxDt x) s = .next t ∧ t.reg x = s.dt ∧ OnlyChanges (fun p => p = .reg x) s t) ∧
    (∃ t, exec (.ldDtVx x) s = .next t ∧ t.dt = s.reg x ∧ OnlyChanges (fun p => p = .dt) s t) ∧
    (∃ t, exec (.ldStVx x) s = .next t ∧ t.st = s.reg x ∧ OnlyChanges (fun p => p = .st) s t)

/-- 43_memory_timer.md section 2, decision D18: FX1E adds V[X] to I modulo 65536 and writes no flag. -/
def Obligations.AddToAddressWrapsAtSixteenBits : Prop :=
  ∀ (s : State) (x : RegIx),
    ∃ t, exec (.addI x) s = .next t ∧ t.i.toNat = (s.i.toNat + (s.reg x).toNat) % 65536 ∧
      OnlyChanges (fun p => p = .i) s t

/-- 43_memory_timer.md section 2, decision D19: FX29 sets I to FONT_BASE + 5 * V[X], the whole byte, with no loss, a valid address. -/
def Obligations.FontAddressIsUnmasked : Prop :=
  ∀ (s : State) (x : RegIx),
    ∃ t, exec (.ldFont x) s = .next t ∧ t.i.toNat = s.cfg.fontBase.val + 5 * (s.reg x).toNat ∧ t.i.toNat ≤ 0x6AB ∧
      OnlyChanges (fun p => p = .i) s t

/-- 20_memory.md section 2 (font layout): with the memory as reset leaves it, FX29 of a digit points I at the 5 bytes of its glyph in
the table FONT, whatever the table holds. The default bytes are PRESUMED (log entry 2) and not part of this. -/
def Obligations.FontAddressPointsAtGlyph : Prop :=
  ∀ (s : State) (x : RegIx) (k : Fin 5), s.mem = [] → (s.reg x).toNat < 16 →
    ∃ t, exec (.ldFont x) s = .next t ∧ s.cfg.font[5 * (s.reg x).toNat + k.val]? = some (t.memByte (t.i.toNat + k.val))

/-- 43_memory_timer.md section 4, decisions D5 (all or nothing) and D20 (I unchanged): FX33 with I + 2 <= 4095 stores the hundreds,
tens and ones digits of V[X] at I, I + 1, I + 2 and changes nothing else; else it is a MemFault with nothing written. -/
def Obligations.BcdStoresDecimalDigits : Prop :=
  ∀ (s : State) (x : RegIx),
    (s.i.toNat + 2 ≤ 4095 →
      ∃ t, exec (.storeBcd x) s = .next t ∧
        (t.memByte s.i.toNat).toNat = (s.reg x).toNat / 100 ∧
        (t.memByte (s.i.toNat + 1)).toNat = (s.reg x).toNat / 10 % 10 ∧
        (t.memByte (s.i.toNat + 2)).toNat = (s.reg x).toNat % 10 ∧
        OnlyChanges (fun p => ∃ k, k ≤ 2 ∧ p = .memByte (s.i.toNat + k)) s t) ∧
    (4095 < s.i.toNat + 2 → EndsInFault (.storeBcd x) s .faultMem)

/-- 43_memory_timer.md section 4, decision D20 (I unchanged): FX55 with I + X <= 4095 stores V[r] at I + r for each r up to X, and
changes no other byte and no register. -/
def Obligations.BlockStoreWritesExactlyItsRange : Prop :=
  ∀ (s : State) (x : RegIx), s.i.toNat + x.val ≤ 4095 →
    ∃ t, exec (.storeRegs x) s = .next t ∧ (∀ r : RegIx, r ≤ x → t.memByte (s.i.toNat + r.val) = s.reg r) ∧
      OnlyChanges (fun p => ∃ k, k ≤ x.val ∧ p = .memByte (s.i.toNat + k)) s t

/-- 43_memory_timer.md section 4, decision D20 (I unchanged): FX65 with I + X <= 4095 loads V[r] from I + r for each r up to X, and
changes no other register and no memory. -/
def Obligations.BlockLoadReadsExactlyItsRange : Prop :=
  ∀ (s : State) (x : RegIx), s.i.toNat + x.val ≤ 4095 →
    ∃ t, exec (.loadRegs x) s = .next t ∧ (∀ r : RegIx, r ≤ x → t.reg r = s.memByte (s.i.toNat + r.val)) ∧
      OnlyChanges (fun p => ∃ r : RegIx, r ≤ x ∧ p = .reg r) s t

/-- 20_memory.md section 3, decisions D5 and D6 (no wrap, all or nothing): DXYN, FX33, FX55 and FX65 whose range passes 4095 set STATUS
to FAULT_MEM and change nothing else, not even V[0xF]. -/
def Obligations.RangeFaultsArePrecise : Prop :=
  ∀ (s : State) (x y : RegIx) (n : Nibble),
    (1 ≤ n.toNat → 4095 < s.i.toNat + (n.toNat - 1) → EndsInFault (.drw x y n) s .faultMem) ∧
    (4095 < s.i.toNat + 2 → EndsInFault (.storeBcd x) s .faultMem) ∧
    (4095 < s.i.toNat + x.val → EndsInFault (.storeRegs x) s .faultMem) ∧
    (4095 < s.i.toNat + x.val → EndsInFault (.loadRegs x) s .faultMem)

/-- 43_memory_timer.md section 4: what FX55 X stored, a later FX65 X loads, from any state that has the same memory and the same I. -/
def Obligations.BlockLoadAfterStoreRestores : Prop :=
  ∀ (s : State) (x : RegIx), s.i.toNat + x.val ≤ 4095 →
    ∃ t, exec (.storeRegs x) s = .next t ∧
      ∀ t' : State, t'.i = t.i → (∀ a, t'.memByte a = t.memByte a) →
        ∃ u, exec (.loadRegs x) t' = .next u ∧ ∀ r : RegIx, r ≤ x → u.reg r = s.reg r

/-! ## Display (44_display.md) -/

/-- R180: 00E0 turns every cell off and changes nothing but cells. -/
def Obligations.ClearTurnsEveryCellOff : Prop :=
  ∀ (s : State) (ign : Nibble),
    ∃ t, exec (.cls ign) s = .next t ∧ (∀ (x : Fin 64) (y : Fin 32), t.cell x y = false) ∧
      OnlyChanges (fun p => ∃ (x : Fin 64) (y : Fin 32), p = .cell x y) s t

/-- 44_display.md section 2 (the closed form, which the spec derives from the loop of DXYN; operand order by decision D22): the cells
hit by 1 bits are toggled, all others are unchanged, and V[0xF] is 1 exactly when a hit cell was on, else 0; N = 0 never faults. -/
def Obligations.DrawTogglesTheSprite : Prop :=
  ∀ (s : State) (x y : RegIx) (n : Nibble) (x0 y0 : Nat), n = 0 ∨ s.i.toNat + (n.toNat - 1) ≤ 4095 →
    x0 = (s.reg x).toNat % 64 → y0 = (s.reg y).toNat % 32 →
    ∃ t, exec (.drw x y n) s = .next t ∧
      (∀ px py, SpriteHits s x0 y0 n.toNat px py → t.cell px py = !s.cell px py) ∧
      ((∃ px py, SpriteHits s x0 y0 n.toNat px py ∧ s.cell px py = true) → t.reg 0xF = 1) ∧
      (¬ (∃ px py, SpriteHits s x0 y0 n.toNat px py ∧ s.cell px py = true) → t.reg 0xF = 0) ∧
      OnlyChanges (fun p => p = .reg 0xF ∨ ∃ px py, SpriteHits s x0 y0 n.toNat px py ∧ p = .cell px py) s t

/-- 44_display.md section 2 (self-inverse, which the spec derives; 90_conflicts.md C12): the same draw twice restores the display, and
after the second V[0xF] is 1 exactly when some hit cell was off before the first. -/
def Obligations.DrawTwiceRestoresDisplay : Prop :=
  ∀ (s : State) (x y : RegIx) (n : Nibble), x ≠ 0xF → y ≠ 0xF → n = 0 ∨ s.i.toNat + (n.toNat - 1) ≤ 4095 →
    ∃ t u, exec (.drw x y n) s = .next t ∧ exec (.drw x y n) t = .next u ∧
      (u.reg 0xF = 1 ↔ ∃ px py, SpriteHits s ((s.reg x).toNat % 64) ((s.reg y).toNat % 32) n.toNat px py ∧ s.cell px py = false) ∧
      OnlyChanges (fun p => p = .reg 0xF) s u

/-! ## Keypad (45_input.md) -/

/-- 45_input.md section 2 (the key is V[X] mod 16 by decision D11): EX9E skips exactly when that key is pressed in the snapshot, EXA1
exactly when it is not. -/
def Obligations.KeySkipsAreComplements : Prop :=
  ∀ (s : State) (x : RegIx),
    ∃ t u, exec (.skp x) s = .next t ∧ exec (.sknp x) s = .next u ∧
      t.pc = (if s.keys.getLsbD ((s.reg x).toNat % 16) = true then s.pc + 2 else s.pc) ∧
      u.pc = (if s.keys.getLsbD ((s.reg x).toNat % 16) = true then s.pc else s.pc + 2) ∧
      OnlyChanges (fun p => p = .pc) s t ∧ OnlyChanges (fun p => p = .pc) s u

/-- 45_input.md section 3, decision D10: FX0A with some key pressed stores the smallest pressed key in V[X]. -/
def Obligations.KeyWaitTakesLowestKey : Prop :=
  ∀ (s : State) (x : RegIx), s.keys ≠ 0 →
    ∃ t, ∃ k : Fin 16, exec (.ldVxKey x) s = .next t ∧ s.keys.getLsbD k.val = true ∧
      (∀ j : Fin 16, j < k → s.keys.getLsbD j.val = false) ∧ (t.reg x).toNat = k.val ∧
      OnlyChanges (fun p => p = .reg x) s t

/-- 45_input.md section 3, decision D9: a STEP of FX0A with no key pressed changes no state at all and returns NEEDS_INPUT. -/
def Obligations.KeyWaitWithoutKeyChangesNothing : Prop :=
  ∀ (s : State) (x : RegIx), Fetches s → decode s.fetchWord = .ldVxKey x → s.keys = 0 →
    step s = .next s ∧ coreResult s = some .needsInput

/-! ## The step cycle (40_step_cycle.md) and the unmapped no-op -/

/-- R107: an unmapped word does nothing in the execute phase; a STEP that fetches one adds 2 to PC, changes nothing else, result OK. -/
def Obligations.UnmappedWordsDoNothing : Prop :=
  ∀ s : State, (∀ w : Word, exec (.nop w) s = .next s) ∧
    (Fetches s → unmapped s.fetchWord = true →
      ∃ t, step s = .next t ∧ t.pc.toNat = s.pc.toNat + 2 ∧ OnlyChanges (fun p => p = .pc) s t ∧ coreResult s = some .ok)

/-- 40_step_cycle.md section 1 (R103 to R106): a STEP that fetches reads the word at PC, most significant byte first, adds 2 to PC, and
runs exec of the decoded instruction on that state, in which PC alone has changed. That an empty schedule is a host that issues STEP,
and that a STEP the schedule names is the same STEP, is the model's choice (log entry 5). -/
def Obligations.StepRunsDecodedInstruction : Prop :=
  (∀ s : State, Fetches s →
    step s = exec (decode s.fetchWord) s.advance ∧
    s.fetchWord.toNat = (s.memByte s.pc.toNat).toNat * 256 + (s.memByte (s.pc.toNat + 1)).toNat ∧
    s.advance.pc.toNat = s.pc.toNat + 2 ∧ OnlyChanges (fun p => p = .pc) s s.advance) ∧
  (∀ (s : State) (rest : List HostOp), s.schedule = .step :: rest → s.status = .running → s.pc.toNat ≤ 0x0FFE →
    step s = exec (decode s.fetchWord) { s.advance with schedule := rest })

/-- 40_step_cycle.md section 1, decision D4: a STEP with PC > 0x0FFE sets STATUS to HALTED_PC, advances nothing, changes nothing else,
and returns HALTED. -/
def Obligations.PcPastMemoryHalts : Prop :=
  ∀ s : State, s.schedule = [] → s.status = .running → 0x0FFE < s.pc.toNat →
    ∃ t, step s = .next t ∧ t.status = .haltedPc ∧ OnlyChanges (fun p => p = .status) s t ∧ coreResult s = some .halted

/-- 40_step_cycle.md section 1, decision D2: while STATUS is not RUNNING a STEP changes no state and repeats the result. -/
def Obligations.StoppedMachineIgnoresStep : Prop :=
  ∀ s : State, s.schedule = [] → s.status ≠ .running →
    step s = .next s ∧ coreResult s = some (resultOfStatus s.status) ∧ resultOfStatus s.status ≠ .ok ∧
      resultOfStatus s.status ≠ .needsInput

/-- 60_exceptions.md section 5, decision D2, log entry 5 (the schedule): the only operations that change a STATUS other than RUNNING are
RESET and a LOAD of an image that fits, and they make it RUNNING. -/
def Obligations.OnlyResetAndLoadLeaveAStop : Prop :=
  ∀ s t : State, s.status ≠ .running → step s = .next t → t.status ≠ s.status →
    t.status = .running ∧
      ∃ rest, s.schedule = .reset :: rest ∨ ∃ image, image.length ≤ 3584 ∧ s.schedule = .load image :: rest

/-- 60_exceptions.md section 1 and 30_encoding.md section 4 (no word is refused, every abnormal outcome is a state): every step answers a
next state, whatever the memory holds. That an abnormal outcome is a next state is the model's inference (log entry 7, DEDUCED), and
that step is defined on every State its choice (log entry 15). -/
def Obligations.EveryStepAnswersNext : Prop := ∀ s : State, ∃ t, step s = .next t

/-- 40_step_cycle.md section 3, decision D3: every STEP has a result; it is OK or NEEDS_INPUT exactly when STATUS is then RUNNING,
HALTED exactly when it is then HALTED_PC, and with NEEDS_INPUT no state has changed. -/
def Obligations.StepResultFollowsStatus : Prop :=
  ∀ s : State, ∃ t r, coreStep s = .next t ∧ coreResult s = some r ∧
    ((r = .ok ∨ r = .needsInput) ↔ t.status = .running) ∧ (r = .halted ↔ t.status = .haltedPc) ∧ (r = .needsInput → t = s)

/-! ## Host operations (60_exceptions.md section 7, 70_reset_and_hazards.md) -/

/-- 60_exceptions.md section 7, decision D26, log entry 14 (a timer at zero stays there) and log entry 5 (the schedule), and 10_state.md
section 8: TICK lowers each nonzero timer by one, in any STATUS; a change of KEYS changes KEYS. -/
def Obligations.TickAndKeyChangesAreLocal : Prop :=
  ∀ (s : State) (rest : List HostOp) (k : BitVec 16),
    (s.schedule = .tick :: rest →
      ∃ t, step s = .next t ∧ t.dt.toNat = s.dt.toNat - 1 ∧ t.st.toNat = s.st.toNat - 1 ∧ t.schedule = rest ∧
        OnlyChanges (fun p => p = .dt ∨ p = .st ∨ p = .schedule) s t) ∧
    (s.schedule = .setKeys k :: rest →
      ∃ t, step s = .next t ∧ t.keys = k ∧ t.schedule = rest ∧ OnlyChanges (fun p => p = .keys ∨ p = .schedule) s t)

/-- 60_exceptions.md section 7, log entries 14 and 5 (the schedule): n TICKs in a row lower each timer by n and stop it at zero. -/
def Obligations.ManyTicksStopAtZero : Prop :=
  ∀ (n : Nat) (s : State) (rest : List HostOp), s.schedule = List.replicate n .tick ++ rest →
    ∃ t : State, Host.Core.run Sys2Proof.core n s = .next t ∧ t.dt.toNat = s.dt.toNat - n ∧ t.st.toNat = s.st.toNat - n ∧
      t.schedule = rest ∧ OnlyChanges (fun p => p = .dt ∨ p = .st ∨ p = .schedule) s t

/-- 10_state.md section 13: the state after reset holds the value of every row of the table; the rows marked D there are the spec's
decision D24. The last two clauses are no rows of the table: that State.reset has the defaults FONT_BASE = 0 and SHIFT_USES_VY = false
is the model's choice (log entry 1; the defaults are the spec's decisions D14 and D13). -/
def Obligations.ResetStateHoldsTable : Prop :=
  RegistersReset State.reset ∧ (∀ a, a < 4096 → ByteReset State.reset a) ∧ State.reset.cfg.fontBase.val = 0 ∧
    State.reset.cfg.shiftUsesVY = false

/-- 70_reset_and_hazards.md section 1, decision D1, log entry 5 (the schedule): RESET from any state, in any STATUS, gives the values of
the table and touches neither the configuration nor KEYS nor the draws of RND. -/
def Obligations.ResetRestoresEveryPart : Prop :=
  ∀ (s : State) (rest : List HostOp), s.schedule = .reset :: rest →
    ∃ t, step s = .next t ∧ RegistersReset t ∧ (∀ a, a < 4096 → ByteReset t a) ∧ t.schedule = rest ∧ t.cfg = s.cfg ∧
      t.keys = s.keys ∧ t.rndDraws = s.rndDraws

/-- 70_reset_and_hazards.md section 2, decision D25, log entry 5 (the schedule): LOAD of at most 3584 bytes resets and places byte k of
the image at 0x200 + k; a longer image changes nothing. -/
def Obligations.LoadPlacesImageOrRefuses : Prop :=
  ∀ (s : State) (image : List Byte) (rest : List HostOp), s.schedule = .load image :: rest →
    (image.length ≤ 3584 →
      ∃ t, step s = .next t ∧ loadResult image = .loadOk ∧ RegistersReset t ∧
        (∀ k, k < image.length → image[k]? = some (t.memByte (0x200 + k))) ∧
        (∀ a, a < 0x200 ∨ (0x200 + image.length ≤ a ∧ a < 4096) → ByteReset t a) ∧
        t.schedule = rest ∧ t.cfg = s.cfg ∧ t.keys = s.keys ∧ t.rndDraws = s.rndDraws) ∧
    (3584 < image.length →
      ∃ t, step s = .next t ∧ loadResult image = .loadTooLarge ∧ t.schedule = rest ∧
        OnlyChanges (fun p => p = .schedule) s t)

/-! ## Whole-machine rules -/

/-- 10_state.md section 2: a register changes only as a named destination, or as V[0xF] by one of the six flag-writing operations; and
when such an operation runs without a fault V[0xF] ends as 0 or 1. -/
def Obligations.RegistersChangeOnlyAsNamed : Prop :=
  ∀ (i : Instr) (s t : State), exec i s = .next t →
    (∀ r : RegIx, t.reg r ≠ s.reg r → NamesDestination r i ∨ (WritesFlag i ∧ r = 0xF)) ∧
    (WritesFlag i → s.status = .running → t.status = .running → t.reg 0xF = 0 ∨ t.reg 0xF = 1)

/-- 10_state.md section 12, the column "written by" for I, SP, STACK, DT, ST, DISP and MEM: no other instruction changes them; and no
instruction changes the configuration, KEYS or the schedule. -/
def Obligations.WritersOfEachPart : Prop :=
  ∀ (i : Instr) (s t : State), exec i s = .next t →
    (t.i ≠ s.i → (∃ nnn, i = .ldI nnn) ∨ (∃ x, i = .addI x) ∨ ∃ x, i = .ldFont x) ∧
    (t.sp ≠ s.sp → (∃ ign, i = .ret ign) ∨ ∃ nnn, i = .call nnn) ∧
    ((∃ k : Fin 16, t.stack[k] ≠ s.stack[k]) → ∃ nnn, i = .call nnn) ∧
    (t.dt ≠ s.dt → ∃ x, i = .ldDtVx x) ∧
    (t.st ≠ s.st → ∃ x, i = .ldStVx x) ∧
    ((∃ x y, t.cell x y ≠ s.cell x y) → (∃ ign, i = .cls ign) ∨ ∃ x y n, i = .drw x y n) ∧
    ((∃ a, t.memByte a ≠ s.memByte a) → (∃ x, i = .storeBcd x) ∨ ∃ x, i = .storeRegs x) ∧
    (t.rndDraws ≠ s.rndDraws → ∃ x kk, i = .rnd x kk) ∧
    t.cfg = s.cfg ∧ t.keys = s.keys ∧ t.schedule = s.schedule

/-- 10_state.md section 6: DT and ST change only by TICK, by the STEP of FX15 or FX18 (which writes V[X]), or by RESET or LOAD. -/
def Obligations.TimersChangeOnlyByTickOrTheirWrites : Prop :=
  ∀ s t : State, step s = .next t →
    (t.dt ≠ s.dt →
      (∃ rest, s.schedule = .tick :: rest ∨ s.schedule = .reset :: rest ∨ ∃ image, s.schedule = .load image :: rest) ∨
      ∃ x, decode s.fetchWord = .ldDtVx x ∧ t.dt = s.reg x) ∧
    (t.st ≠ s.st →
      (∃ rest, s.schedule = .tick :: rest ∨ s.schedule = .reset :: rest ∨ ∃ image, s.schedule = .load image :: rest) ∨
      ∃ x, decode s.fetchWord = .ldStVx x ∧ t.st = s.reg x)

/-- 10_state.md section 6 ("No instruction reads it"): two states that differ in ST alone are led by a STEP to states that differ in
ST at most. -/
def Obligations.SoundTimerIsNeverRead : Prop :=
  ∀ (s t : State) (b : Byte), coreStep s = .next t →
    ∃ u, coreStep (s.setSt b) = .next u ∧ OnlyChanges (fun p => p = .st) t u

/-- 10_state.md section 8: KEYS is sampled by EX9E, EXA1 and FX0A alone: every other instruction does the same under any other
snapshot. -/
def Obligations.KeysAreReadByKeyInstructionsOnly : Prop :=
  ∀ (i : Instr) (s t : State) (k : BitVec 16), (∀ x, i ≠ .skp x ∧ i ≠ .sknp x ∧ i ≠ .ldVxKey x) → exec i s = .next t →
    ∃ u, exec i (s.hostSetKeys k) = .next u ∧ u.keys = k ∧ OnlyChanges (fun p => p = .keys) t u

/-- 10_state.md section 11 (what R26 says of the operations): no operation of the core or of the host changes the configuration. -/
def Obligations.ConfigurationNeverChanges : Prop := ∀ s t : State, step s = .next t → t.cfg = s.cfg

/-- 10_state.md section 13 (the state invariants, which the spec derives) with the memory's canonical form (log entry 12): every step
keeps PC <= 0x10FE, every STACK entry <= 0x1000, and the memory canonical. -/
def Obligations.StepKeepsInvariant : Prop := ∀ s t : State, Inv s → step s = .next t → Inv t

/-- 10_state.md section 13: the invariant holds in the state after reset. -/
def Obligations.ResetMeetsInvariant : Prop := Inv State.reset

/-! ## Encoding (30_encoding.md) -/

/-- 30_encoding.md sections 1 to 3 (ignored fields: decision D17, kept as operands by log entry 11): decoding the word of a well-formed
instruction gives it back, every operand at every value. -/
def Obligations.DecodeOfEncode : Prop := ∀ i : Instr, i.wellFormed = true → decode (encode i) = i

/-- 30_encoding.md sections 1 to 4: every one of the 65536 words decodes to a well-formed instruction that encodes to that very word.
For a word with ignored bits this holds because the model keeps them as operands, its own choice (log entry 11). -/
def Obligations.EncodeOfDecode : Prop := ∀ w : Word, encode (decode w) = w ∧ (decode w).wellFormed = true

/-- 30_encoding.md sections 3 and 4 (masks: decision D17): the decoder gives a word the row whose mask and match select it, no two rows
select one word, and the words no row selects are exactly the unmapped ones, which decode to the no-op. -/
def Obligations.DecoderAgreesWithOpcodeTable : Prop :=
  ∀ w : Word,
    (∀ r ∈ opcodeRows, r.selects w = true ↔ rowOf (decode w) = r.name) ∧
    (opcodeRows.filter (fun r => r.selects w)).length = (if unmapped w = true then 0 else 1) ∧
    (unmapped w = true ↔ decode w = .nop w)

/-- 30_encoding.md sections 3 and 6, 95_test_vectors.md: words written out from the spec decode to the instructions they stand for. -/
def Obligations.SampleWordsDecode : Prop :=
  decode 0x600A = .ldImm 0 0x0A ∧ decode 0x8FE4 = .addReg 0xF 0xE ∧ decode 0x0AEE = .ret 0xA ∧ decode 0xB200 = .jpV0 0x200 ∧
    decode 0xD012 = .drw 0 1 2 ∧ decode 0xE39E = .skp 3 ∧ decode 0xF265 = .loadRegs 2 ∧ decode 0x8ABF = .nop 0x8ABF

/-! ## The end of a run and the views -/

/-- 70_reset_and_hazards.md section 3, decision D30: a parked machine stays parked: a STEP changes no state. -/
def Obligations.ParkedMachineStaysParked : Prop := ∀ s : State, Parked s → s.schedule = [] → step s = .next s

/-- 70_reset_and_hazards.md section 4 (running off the end, which the spec derives): over zeroed memory n STEPs walk PC up to 0x1000
and the next one halts; nothing but PC and STATUS changes. -/
def Obligations.ZeroedMemorySlidesToHalt : Prop :=
  ∀ (n : Nat) (s : State), s.schedule = [] → s.status = .running → s.pc.toNat + 2 * n = 0x1000 →
    (∀ a, s.pc.toNat ≤ a → a ≤ 0x0FFF → s.memByte a = 0) →
    Host.Core.run Sys2Proof.core n s = .next (s.setPc 0x1000) ∧
      Host.Core.run Sys2Proof.core (n + 1) s = .next ((s.setPc 0x1000).raise .haltPc)

/-- 44_display.md section 3, decision D23, and 10_state.md section 11: cell (x, y) has index y * 64 + x of the framebuffer view, and the
register view shows every byte of memory. -/
def Obligations.ViewsShowDisplayAndMemory : Prop :=
  ∀ s : State,
    (∀ (x : Fin 64) (y : Fin 32), s.framebuffer[y.val * 64 + x.val]? = some (s.cell x y)) ∧
    (∀ a, a < 4096 → s.registerView.mem[a]? = some (s.memByte a))

end
end

