-- ==== Sys2Proof/Laws/State.lean ====
section
/-! SUPPORT. For each update of the state, what each field holds after it, true by unfolding the update once: no later proof unfolds a
record update. -/

namespace Sys2Proof.Machine

/-! ### `State.setReg` -/

@[simp] theorem State.setReg_v (s : State) (r : RegIx) (b : Byte) : (s.setReg r b).v = s.v.set r b := rfl
@[simp] theorem State.setReg_i (s : State) (r : RegIx) (b : Byte) : (s.setReg r b).i = s.i := rfl
@[simp] theorem State.setReg_pc (s : State) (r : RegIx) (b : Byte) : (s.setReg r b).pc = s.pc := rfl
@[simp] theorem State.setReg_sp (s : State) (r : RegIx) (b : Byte) : (s.setReg r b).sp = s.sp := rfl
@[simp] theorem State.setReg_stack (s : State) (r : RegIx) (b : Byte) : (s.setReg r b).stack = s.stack := rfl
@[simp] theorem State.setReg_dt (s : State) (r : RegIx) (b : Byte) : (s.setReg r b).dt = s.dt := rfl
@[simp] theorem State.setReg_st (s : State) (r : RegIx) (b : Byte) : (s.setReg r b).st = s.st := rfl
@[simp] theorem State.setReg_disp (s : State) (r : RegIx) (b : Byte) : (s.setReg r b).disp = s.disp := rfl
@[simp] theorem State.setReg_mem (s : State) (r : RegIx) (b : Byte) : (s.setReg r b).mem = s.mem := rfl
@[simp] theorem State.setReg_status (s : State) (r : RegIx) (b : Byte) : (s.setReg r b).status = s.status := rfl
@[simp] theorem State.setReg_cfg (s : State) (r : RegIx) (b : Byte) : (s.setReg r b).cfg = s.cfg := rfl
@[simp] theorem State.setReg_keys (s : State) (r : RegIx) (b : Byte) : (s.setReg r b).keys = s.keys := rfl
@[simp] theorem State.setReg_rndDraws (s : State) (r : RegIx) (b : Byte) : (s.setReg r b).rndDraws = s.rndDraws := rfl
@[simp] theorem State.setReg_schedule (s : State) (r : RegIx) (b : Byte) : (s.setReg r b).schedule = s.schedule := rfl

/-! ### `State.setI` -/

@[simp] theorem State.setI_v (s : State) (w : Word) : (s.setI w).v = s.v := rfl
@[simp] theorem State.setI_i (s : State) (w : Word) : (s.setI w).i = w := rfl
@[simp] theorem State.setI_pc (s : State) (w : Word) : (s.setI w).pc = s.pc := rfl
@[simp] theorem State.setI_sp (s : State) (w : Word) : (s.setI w).sp = s.sp := rfl
@[simp] theorem State.setI_stack (s : State) (w : Word) : (s.setI w).stack = s.stack := rfl
@[simp] theorem State.setI_dt (s : State) (w : Word) : (s.setI w).dt = s.dt := rfl
@[simp] theorem State.setI_st (s : State) (w : Word) : (s.setI w).st = s.st := rfl
@[simp] theorem State.setI_disp (s : State) (w : Word) : (s.setI w).disp = s.disp := rfl
@[simp] theorem State.setI_mem (s : State) (w : Word) : (s.setI w).mem = s.mem := rfl
@[simp] theorem State.setI_status (s : State) (w : Word) : (s.setI w).status = s.status := rfl
@[simp] theorem State.setI_cfg (s : State) (w : Word) : (s.setI w).cfg = s.cfg := rfl
@[simp] theorem State.setI_keys (s : State) (w : Word) : (s.setI w).keys = s.keys := rfl
@[simp] theorem State.setI_rndDraws (s : State) (w : Word) : (s.setI w).rndDraws = s.rndDraws := rfl
@[simp] theorem State.setI_schedule (s : State) (w : Word) : (s.setI w).schedule = s.schedule := rfl

/-! ### `State.setDt` -/

@[simp] theorem State.setDt_v (s : State) (b : Byte) : (s.setDt b).v = s.v := rfl
@[simp] theorem State.setDt_i (s : State) (b : Byte) : (s.setDt b).i = s.i := rfl
@[simp] theorem State.setDt_pc (s : State) (b : Byte) : (s.setDt b).pc = s.pc := rfl
@[simp] theorem State.setDt_sp (s : State) (b : Byte) : (s.setDt b).sp = s.sp := rfl
@[simp] theorem State.setDt_stack (s : State) (b : Byte) : (s.setDt b).stack = s.stack := rfl
@[simp] theorem State.setDt_dt (s : State) (b : Byte) : (s.setDt b).dt = b := rfl
@[simp] theorem State.setDt_st (s : State) (b : Byte) : (s.setDt b).st = s.st := rfl
@[simp] theorem State.setDt_disp (s : State) (b : Byte) : (s.setDt b).disp = s.disp := rfl
@[simp] theorem State.setDt_mem (s : State) (b : Byte) : (s.setDt b).mem = s.mem := rfl
@[simp] theorem State.setDt_status (s : State) (b : Byte) : (s.setDt b).status = s.status := rfl
@[simp] theorem State.setDt_cfg (s : State) (b : Byte) : (s.setDt b).cfg = s.cfg := rfl
@[simp] theorem State.setDt_keys (s : State) (b : Byte) : (s.setDt b).keys = s.keys := rfl
@[simp] theorem State.setDt_rndDraws (s : State) (b : Byte) : (s.setDt b).rndDraws = s.rndDraws := rfl
@[simp] theorem State.setDt_schedule (s : State) (b : Byte) : (s.setDt b).schedule = s.schedule := rfl

/-! ### `State.setSt` -/

@[simp] theorem State.setSt_v (s : State) (b : Byte) : (s.setSt b).v = s.v := rfl
@[simp] theorem State.setSt_i (s : State) (b : Byte) : (s.setSt b).i = s.i := rfl
@[simp] theorem State.setSt_pc (s : State) (b : Byte) : (s.setSt b).pc = s.pc := rfl
@[simp] theorem State.setSt_sp (s : State) (b : Byte) : (s.setSt b).sp = s.sp := rfl
@[simp] theorem State.setSt_stack (s : State) (b : Byte) : (s.setSt b).stack = s.stack := rfl
@[simp] theorem State.setSt_dt (s : State) (b : Byte) : (s.setSt b).dt = s.dt := rfl
@[simp] theorem State.setSt_st (s : State) (b : Byte) : (s.setSt b).st = b := rfl
@[simp] theorem State.setSt_disp (s : State) (b : Byte) : (s.setSt b).disp = s.disp := rfl
@[simp] theorem State.setSt_mem (s : State) (b : Byte) : (s.setSt b).mem = s.mem := rfl
@[simp] theorem State.setSt_status (s : State) (b : Byte) : (s.setSt b).status = s.status := rfl
@[simp] theorem State.setSt_cfg (s : State) (b : Byte) : (s.setSt b).cfg = s.cfg := rfl
@[simp] theorem State.setSt_keys (s : State) (b : Byte) : (s.setSt b).keys = s.keys := rfl
@[simp] theorem State.setSt_rndDraws (s : State) (b : Byte) : (s.setSt b).rndDraws = s.rndDraws := rfl
@[simp] theorem State.setSt_schedule (s : State) (b : Byte) : (s.setSt b).schedule = s.schedule := rfl

/-! ### `State.setPc` -/

@[simp] theorem State.setPc_v (s : State) (w : Word) : (s.setPc w).v = s.v := rfl
@[simp] theorem State.setPc_i (s : State) (w : Word) : (s.setPc w).i = s.i := rfl
@[simp] theorem State.setPc_pc (s : State) (w : Word) : (s.setPc w).pc = w := rfl
@[simp] theorem State.setPc_sp (s : State) (w : Word) : (s.setPc w).sp = s.sp := rfl
@[simp] theorem State.setPc_stack (s : State) (w : Word) : (s.setPc w).stack = s.stack := rfl
@[simp] theorem State.setPc_dt (s : State) (w : Word) : (s.setPc w).dt = s.dt := rfl
@[simp] theorem State.setPc_st (s : State) (w : Word) : (s.setPc w).st = s.st := rfl
@[simp] theorem State.setPc_disp (s : State) (w : Word) : (s.setPc w).disp = s.disp := rfl
@[simp] theorem State.setPc_mem (s : State) (w : Word) : (s.setPc w).mem = s.mem := rfl
@[simp] theorem State.setPc_status (s : State) (w : Word) : (s.setPc w).status = s.status := rfl
@[simp] theorem State.setPc_cfg (s : State) (w : Word) : (s.setPc w).cfg = s.cfg := rfl
@[simp] theorem State.setPc_keys (s : State) (w : Word) : (s.setPc w).keys = s.keys := rfl
@[simp] theorem State.setPc_rndDraws (s : State) (w : Word) : (s.setPc w).rndDraws = s.rndDraws := rfl
@[simp] theorem State.setPc_schedule (s : State) (w : Word) : (s.setPc w).schedule = s.schedule := rfl

/-! ### `State.advance` -/

@[simp] theorem State.advance_v (s : State) : (s.advance).v = s.v := rfl
@[simp] theorem State.advance_i (s : State) : (s.advance).i = s.i := rfl
@[simp] theorem State.advance_pc (s : State) : (s.advance).pc = s.pc + 2 := rfl
@[simp] theorem State.advance_sp (s : State) : (s.advance).sp = s.sp := rfl
@[simp] theorem State.advance_stack (s : State) : (s.advance).stack = s.stack := rfl
@[simp] theorem State.advance_dt (s : State) : (s.advance).dt = s.dt := rfl
@[simp] theorem State.advance_st (s : State) : (s.advance).st = s.st := rfl
@[simp] theorem State.advance_disp (s : State) : (s.advance).disp = s.disp := rfl
@[simp] theorem State.advance_mem (s : State) : (s.advance).mem = s.mem := rfl
@[simp] theorem State.advance_status (s : State) : (s.advance).status = s.status := rfl
@[simp] theorem State.advance_cfg (s : State) : (s.advance).cfg = s.cfg := rfl
@[simp] theorem State.advance_keys (s : State) : (s.advance).keys = s.keys := rfl
@[simp] theorem State.advance_rndDraws (s : State) : (s.advance).rndDraws = s.rndDraws := rfl
@[simp] theorem State.advance_schedule (s : State) : (s.advance).schedule = s.schedule := rfl

/-! ### `State.skip` -/

@[simp] theorem State.skip_v (s : State) : (s.skip).v = s.v := rfl
@[simp] theorem State.skip_i (s : State) : (s.skip).i = s.i := rfl
@[simp] theorem State.skip_pc (s : State) : (s.skip).pc = s.pc + 2 := rfl
@[simp] theorem State.skip_sp (s : State) : (s.skip).sp = s.sp := rfl
@[simp] theorem State.skip_stack (s : State) : (s.skip).stack = s.stack := rfl
@[simp] theorem State.skip_dt (s : State) : (s.skip).dt = s.dt := rfl
@[simp] theorem State.skip_st (s : State) : (s.skip).st = s.st := rfl
@[simp] theorem State.skip_disp (s : State) : (s.skip).disp = s.disp := rfl
@[simp] theorem State.skip_mem (s : State) : (s.skip).mem = s.mem := rfl
@[simp] theorem State.skip_status (s : State) : (s.skip).status = s.status := rfl
@[simp] theorem State.skip_cfg (s : State) : (s.skip).cfg = s.cfg := rfl
@[simp] theorem State.skip_keys (s : State) : (s.skip).keys = s.keys := rfl
@[simp] theorem State.skip_rndDraws (s : State) : (s.skip).rndDraws = s.rndDraws := rfl
@[simp] theorem State.skip_schedule (s : State) : (s.skip).schedule = s.schedule := rfl

/-! ### `State.rewind` -/

@[simp] theorem State.rewind_v (s : State) : (s.rewind).v = s.v := rfl
@[simp] theorem State.rewind_i (s : State) : (s.rewind).i = s.i := rfl
@[simp] theorem State.rewind_pc (s : State) : (s.rewind).pc = s.pc - 2 := rfl
@[simp] theorem State.rewind_sp (s : State) : (s.rewind).sp = s.sp := rfl
@[simp] theorem State.rewind_stack (s : State) : (s.rewind).stack = s.stack := rfl
@[simp] theorem State.rewind_dt (s : State) : (s.rewind).dt = s.dt := rfl
@[simp] theorem State.rewind_st (s : State) : (s.rewind).st = s.st := rfl
@[simp] theorem State.rewind_disp (s : State) : (s.rewind).disp = s.disp := rfl
@[simp] theorem State.rewind_mem (s : State) : (s.rewind).mem = s.mem := rfl
@[simp] theorem State.rewind_status (s : State) : (s.rewind).status = s.status := rfl
@[simp] theorem State.rewind_cfg (s : State) : (s.rewind).cfg = s.cfg := rfl
@[simp] theorem State.rewind_keys (s : State) : (s.rewind).keys = s.keys := rfl
@[simp] theorem State.rewind_rndDraws (s : State) : (s.rewind).rndDraws = s.rndDraws := rfl
@[simp] theorem State.rewind_schedule (s : State) : (s.rewind).schedule = s.schedule := rfl

/-! ### `State.raise` -/

@[simp] theorem State.raise_v (s : State) (e : Abnormal) : (s.raise e).v = s.v := rfl
@[simp] theorem State.raise_i (s : State) (e : Abnormal) : (s.raise e).i = s.i := rfl
@[simp] theorem State.raise_pc (s : State) (e : Abnormal) : (s.raise e).pc = s.pc := rfl
@[simp] theorem State.raise_sp (s : State) (e : Abnormal) : (s.raise e).sp = s.sp := rfl
@[simp] theorem State.raise_stack (s : State) (e : Abnormal) : (s.raise e).stack = s.stack := rfl
@[simp] theorem State.raise_dt (s : State) (e : Abnormal) : (s.raise e).dt = s.dt := rfl
@[simp] theorem State.raise_st (s : State) (e : Abnormal) : (s.raise e).st = s.st := rfl
@[simp] theorem State.raise_disp (s : State) (e : Abnormal) : (s.raise e).disp = s.disp := rfl
@[simp] theorem State.raise_mem (s : State) (e : Abnormal) : (s.raise e).mem = s.mem := rfl
@[simp] theorem State.raise_status (s : State) (e : Abnormal) : (s.raise e).status = statusOf e := rfl
@[simp] theorem State.raise_cfg (s : State) (e : Abnormal) : (s.raise e).cfg = s.cfg := rfl
@[simp] theorem State.raise_keys (s : State) (e : Abnormal) : (s.raise e).keys = s.keys := rfl
@[simp] theorem State.raise_rndDraws (s : State) (e : Abnormal) : (s.raise e).rndDraws = s.rndDraws := rfl
@[simp] theorem State.raise_schedule (s : State) (e : Abnormal) : (s.raise e).schedule = s.schedule := rfl

/-! ### `State.setCell` -/

@[simp] theorem State.setCell_v (s : State) (x : Fin 64) (y : Fin 32) (b : Bool) : (s.setCell x y b).v = s.v := rfl
@[simp] theorem State.setCell_i (s : State) (x : Fin 64) (y : Fin 32) (b : Bool) : (s.setCell x y b).i = s.i := rfl
@[simp] theorem State.setCell_pc (s : State) (x : Fin 64) (y : Fin 32) (b : Bool) : (s.setCell x y b).pc = s.pc := rfl
@[simp] theorem State.setCell_sp (s : State) (x : Fin 64) (y : Fin 32) (b : Bool) : (s.setCell x y b).sp = s.sp := rfl
@[simp] theorem State.setCell_stack (s : State) (x : Fin 64) (y : Fin 32) (b : Bool) : (s.setCell x y b).stack = s.stack := rfl
@[simp] theorem State.setCell_dt (s : State) (x : Fin 64) (y : Fin 32) (b : Bool) : (s.setCell x y b).dt = s.dt := rfl
@[simp] theorem State.setCell_st (s : State) (x : Fin 64) (y : Fin 32) (b : Bool) : (s.setCell x y b).st = s.st := rfl
@[simp] theorem State.setCell_mem (s : State) (x : Fin 64) (y : Fin 32) (b : Bool) : (s.setCell x y b).mem = s.mem := rfl
@[simp] theorem State.setCell_status (s : State) (x : Fin 64) (y : Fin 32) (b : Bool) : (s.setCell x y b).status = s.status := rfl
@[simp] theorem State.setCell_cfg (s : State) (x : Fin 64) (y : Fin 32) (b : Bool) : (s.setCell x y b).cfg = s.cfg := rfl
@[simp] theorem State.setCell_keys (s : State) (x : Fin 64) (y : Fin 32) (b : Bool) : (s.setCell x y b).keys = s.keys := rfl
@[simp] theorem State.setCell_rndDraws (s : State) (x : Fin 64) (y : Fin 32) (b : Bool) : (s.setCell x y b).rndDraws = s.rndDraws := rfl
@[simp] theorem State.setCell_schedule (s : State) (x : Fin 64) (y : Fin 32) (b : Bool) : (s.setCell x y b).schedule = s.schedule := rfl

/-! ### `State.clearDisplay` -/

@[simp] theorem State.clearDisplay_v (s : State) : (s.clearDisplay).v = s.v := rfl
@[simp] theorem State.clearDisplay_i (s : State) : (s.clearDisplay).i = s.i := rfl
@[simp] theorem State.clearDisplay_pc (s : State) : (s.clearDisplay).pc = s.pc := rfl
@[simp] theorem State.clearDisplay_sp (s : State) : (s.clearDisplay).sp = s.sp := rfl
@[simp] theorem State.clearDisplay_stack (s : State) : (s.clearDisplay).stack = s.stack := rfl
@[simp] theorem State.clearDisplay_dt (s : State) : (s.clearDisplay).dt = s.dt := rfl
@[simp] theorem State.clearDisplay_st (s : State) : (s.clearDisplay).st = s.st := rfl
@[simp] theorem State.clearDisplay_disp (s : State) : (s.clearDisplay).disp = Vector.replicate 32 (Vector.replicate 64 false) := rfl
@[simp] theorem State.clearDisplay_mem (s : State) : (s.clearDisplay).mem = s.mem := rfl
@[simp] theorem State.clearDisplay_status (s : State) : (s.clearDisplay).status = s.status := rfl
@[simp] theorem State.clearDisplay_cfg (s : State) : (s.clearDisplay).cfg = s.cfg := rfl
@[simp] theorem State.clearDisplay_keys (s : State) : (s.clearDisplay).keys = s.keys := rfl
@[simp] theorem State.clearDisplay_rndDraws (s : State) : (s.clearDisplay).rndDraws = s.rndDraws := rfl
@[simp] theorem State.clearDisplay_schedule (s : State) : (s.clearDisplay).schedule = s.schedule := rfl

/-! ### `State.rndDrawn` -/

@[simp] theorem State.rndDrawn_v (s : State) : (s.rndDrawn).v = s.v := rfl
@[simp] theorem State.rndDrawn_i (s : State) : (s.rndDrawn).i = s.i := rfl
@[simp] theorem State.rndDrawn_pc (s : State) : (s.rndDrawn).pc = s.pc := rfl
@[simp] theorem State.rndDrawn_sp (s : State) : (s.rndDrawn).sp = s.sp := rfl
@[simp] theorem State.rndDrawn_stack (s : State) : (s.rndDrawn).stack = s.stack := rfl
@[simp] theorem State.rndDrawn_dt (s : State) : (s.rndDrawn).dt = s.dt := rfl
@[simp] theorem State.rndDrawn_st (s : State) : (s.rndDrawn).st = s.st := rfl
@[simp] theorem State.rndDrawn_disp (s : State) : (s.rndDrawn).disp = s.disp := rfl
@[simp] theorem State.rndDrawn_mem (s : State) : (s.rndDrawn).mem = s.mem := rfl
@[simp] theorem State.rndDrawn_status (s : State) : (s.rndDrawn).status = s.status := rfl
@[simp] theorem State.rndDrawn_cfg (s : State) : (s.rndDrawn).cfg = s.cfg := rfl
@[simp] theorem State.rndDrawn_keys (s : State) : (s.rndDrawn).keys = s.keys := rfl
@[simp] theorem State.rndDrawn_rndDraws (s : State) : (s.rndDrawn).rndDraws = s.rndDraws + 1 := rfl
@[simp] theorem State.rndDrawn_schedule (s : State) : (s.rndDrawn).schedule = s.schedule := rfl

/-! ### `State.hostTick` -/

@[simp] theorem State.hostTick_v (s : State) : (s.hostTick).v = s.v := rfl
@[simp] theorem State.hostTick_i (s : State) : (s.hostTick).i = s.i := rfl
@[simp] theorem State.hostTick_pc (s : State) : (s.hostTick).pc = s.pc := rfl
@[simp] theorem State.hostTick_sp (s : State) : (s.hostTick).sp = s.sp := rfl
@[simp] theorem State.hostTick_stack (s : State) : (s.hostTick).stack = s.stack := rfl
@[simp] theorem State.hostTick_dt (s : State) : (s.hostTick).dt = tickTimer s.dt := rfl
@[simp] theorem State.hostTick_st (s : State) : (s.hostTick).st = tickTimer s.st := rfl
@[simp] theorem State.hostTick_disp (s : State) : (s.hostTick).disp = s.disp := rfl
@[simp] theorem State.hostTick_mem (s : State) : (s.hostTick).mem = s.mem := rfl
@[simp] theorem State.hostTick_status (s : State) : (s.hostTick).status = s.status := rfl
@[simp] theorem State.hostTick_cfg (s : State) : (s.hostTick).cfg = s.cfg := rfl
@[simp] theorem State.hostTick_keys (s : State) : (s.hostTick).keys = s.keys := rfl
@[simp] theorem State.hostTick_rndDraws (s : State) : (s.hostTick).rndDraws = s.rndDraws := rfl
@[simp] theorem State.hostTick_schedule (s : State) : (s.hostTick).schedule = s.schedule := rfl

/-! ### `State.hostSetKeys` -/

@[simp] theorem State.hostSetKeys_v (s : State) (k : BitVec 16) : (s.hostSetKeys k).v = s.v := rfl
@[simp] theorem State.hostSetKeys_i (s : State) (k : BitVec 16) : (s.hostSetKeys k).i = s.i := rfl
@[simp] theorem State.hostSetKeys_pc (s : State) (k : BitVec 16) : (s.hostSetKeys k).pc = s.pc := rfl
@[simp] theorem State.hostSetKeys_sp (s : State) (k : BitVec 16) : (s.hostSetKeys k).sp = s.sp := rfl
@[simp] theorem State.hostSetKeys_stack (s : State) (k : BitVec 16) : (s.hostSetKeys k).stack = s.stack := rfl
@[simp] theorem State.hostSetKeys_dt (s : State) (k : BitVec 16) : (s.hostSetKeys k).dt = s.dt := rfl
@[simp] theorem State.hostSetKeys_st (s : State) (k : BitVec 16) : (s.hostSetKeys k).st = s.st := rfl
@[simp] theorem State.hostSetKeys_disp (s : State) (k : BitVec 16) : (s.hostSetKeys k).disp = s.disp := rfl
@[simp] theorem State.hostSetKeys_mem (s : State) (k : BitVec 16) : (s.hostSetKeys k).mem = s.mem := rfl
@[simp] theorem State.hostSetKeys_status (s : State) (k : BitVec 16) : (s.hostSetKeys k).status = s.status := rfl
@[simp] theorem State.hostSetKeys_cfg (s : State) (k : BitVec 16) : (s.hostSetKeys k).cfg = s.cfg := rfl
@[simp] theorem State.hostSetKeys_keys (s : State) (k : BitVec 16) : (s.hostSetKeys k).keys = k := rfl
@[simp] theorem State.hostSetKeys_rndDraws (s : State) (k : BitVec 16) : (s.hostSetKeys k).rndDraws = s.rndDraws := rfl
@[simp] theorem State.hostSetKeys_schedule (s : State) (k : BitVec 16) : (s.hostSetKeys k).schedule = s.schedule := rfl

/-! ### `State.writeByte` -/

@[simp] theorem State.writeByte_v (s : State) (a : Nat) (b : Byte) : (s.writeByte a b).v = s.v := by
  unfold State.writeByte; split <;> rfl
@[simp] theorem State.writeByte_i (s : State) (a : Nat) (b : Byte) : (s.writeByte a b).i = s.i := by
  unfold State.writeByte; split <;> rfl
@[simp] theorem State.writeByte_pc (s : State) (a : Nat) (b : Byte) : (s.writeByte a b).pc = s.pc := by
  unfold State.writeByte; split <;> rfl
@[simp] theorem State.writeByte_sp (s : State) (a : Nat) (b : Byte) : (s.writeByte a b).sp = s.sp := by
  unfold State.writeByte; split <;> rfl
@[simp] theorem State.writeByte_stack (s : State) (a : Nat) (b : Byte) : (s.writeByte a b).stack = s.stack := by
  unfold State.writeByte; split <;> rfl
@[simp] theorem State.writeByte_dt (s : State) (a : Nat) (b : Byte) : (s.writeByte a b).dt = s.dt := by
  unfold State.writeByte; split <;> rfl
@[simp] theorem State.writeByte_st (s : State) (a : Nat) (b : Byte) : (s.writeByte a b).st = s.st := by
  unfold State.writeByte; split <;> rfl
@[simp] theorem State.writeByte_disp (s : State) (a : Nat) (b : Byte) : (s.writeByte a b).disp = s.disp := by
  unfold State.writeByte; split <;> rfl
@[simp] theorem State.writeByte_status (s : State) (a : Nat) (b : Byte) : (s.writeByte a b).status = s.status := by
  unfold State.writeByte; split <;> rfl
@[simp] theorem State.writeByte_cfg (s : State) (a : Nat) (b : Byte) : (s.writeByte a b).cfg = s.cfg := by
  unfold State.writeByte; split <;> rfl
@[simp] theorem State.writeByte_keys (s : State) (a : Nat) (b : Byte) : (s.writeByte a b).keys = s.keys := by
  unfold State.writeByte; split <;> rfl
@[simp] theorem State.writeByte_rndDraws (s : State) (a : Nat) (b : Byte) : (s.writeByte a b).rndDraws = s.rndDraws := by
  unfold State.writeByte; split <;> rfl
@[simp] theorem State.writeByte_schedule (s : State) (a : Nat) (b : Byte) : (s.writeByte a b).schedule = s.schedule := by
  unfold State.writeByte; split <;> rfl

end Sys2Proof.Machine
end

