-- ==== Sys2Proof/Laws/Memory.lean ====
section
/-! SUPPORT. The laws of memory: what a read gives after a write, and that every operation keeps the canonical form. -/

namespace Sys2Proof.Machine

/-- The size of memory as a numeral, for arithmetic. -/
@[simp] theorem memSize_eq : memSize = 4096 := rfl

/-! ## Lists of cells -/

theorem Memory.lookup_erase_same (m : Memory) (a : Nat) : Memory.lookup (Memory.erase m a) a = none := by
  induction m with
  | nil => rfl
  | cons c m ih =>
    obtain ⟨k, b⟩ := c
    by_cases h : k = a <;> simp_all [Memory.erase, Memory.lookup]

theorem Memory.lookup_erase_other (m : Memory) {a a' : Nat} (h : a' ≠ a) :
    Memory.lookup (Memory.erase m a) a' = Memory.lookup m a' := by
  induction m with
  | nil => rfl
  | cons c m ih =>
    obtain ⟨k, b⟩ := c
    by_cases hk : k = a
    · subst hk; simp_all [Memory.erase, Memory.lookup, Ne.symm h]
    · simp_all [Memory.erase, Memory.lookup]

theorem Memory.lookup_insert_same (m : Memory) (a : Nat) (b : Byte) : Memory.lookup (Memory.insert m a b) a = some b := by
  induction m with
  | nil => simp [Memory.insert, Memory.lookup]
  | cons c m ih =>
    obtain ⟨k, d⟩ := c
    by_cases hk : k < a
    · simp [Memory.insert, Memory.lookup, hk, ih, Nat.ne_of_lt hk]
    · simp [Memory.insert, Memory.lookup, hk]

theorem Memory.lookup_insert_other (m : Memory) {a a' : Nat} (b : Byte) (h : a' ≠ a) :
    Memory.lookup (Memory.insert m a b) a' = Memory.lookup m a' := by
  induction m with
  | nil => simp [Memory.insert, Memory.lookup, Ne.symm h]
  | cons c m ih =>
    obtain ⟨k, d⟩ := c
    by_cases hk : k < a <;> simp [Memory.insert, Memory.lookup, hk, ih, Ne.symm h]

/-- Read after write, at any two addresses. -/
theorem Memory.read_write (c : Config) (m : Memory) (a a' : Nat) (b : Byte) :
    Memory.read c (Memory.write c m a b) a' = if a' = a then b else Memory.read c m a' := by
  by_cases h : a' = a
  · subst h
    by_cases hb : b = resetByte c a' <;>
      simp [Memory.read, Memory.write, hb, Memory.lookup_erase_same, Memory.lookup_insert_same]
  · by_cases hb : b = resetByte c a <;>
      simp [Memory.read, Memory.write, hb, h, Memory.lookup_erase_other _ h, Memory.lookup_insert_other _ _ h]

/-! ## The canonical form -/

theorem Memory.wfFrom_mono {c : Config} {m : Memory} {lo lo' : Nat} (h : lo' ≤ lo) (hm : Memory.wfFrom c lo m = true) :
    Memory.wfFrom c lo' m = true := by
  cases m with
  | nil => rfl
  | cons e m =>
    obtain ⟨k, b⟩ := e
    simp only [Memory.wfFrom, Bool.and_eq_true, decide_eq_true_eq] at hm ⊢
    exact ⟨⟨⟨by omega, hm.1.1.2⟩, hm.1.2⟩, hm.2⟩

theorem Memory.wfFrom_erase {c : Config} {m : Memory} {lo : Nat} (a : Nat) (hm : Memory.wfFrom c lo m = true) :
    Memory.wfFrom c lo (Memory.erase m a) = true := by
  induction m generalizing lo with
  | nil => rfl
  | cons e m ih =>
    obtain ⟨k, b⟩ := e
    simp only [Memory.wfFrom, Bool.and_eq_true, decide_eq_true_eq] at hm
    by_cases hk : k = a
    · have h := ih (Memory.wfFrom_mono (show lo ≤ k + 1 by omega) hm.2)
      simpa [Memory.erase, hk] using h
    · have h := ih hm.2
      simpa [Memory.erase, hk, Memory.wfFrom, hm.1] using h

theorem Memory.wfFrom_insert {c : Config} {m : Memory} {lo a : Nat} {b : Byte} (hlo : lo ≤ a) (ha : a < memSize)
    (hb : b ≠ resetByte c a) (hm : Memory.wfFrom c lo m = true) (hn : ∀ e ∈ m, e.1 ≠ a) :
    Memory.wfFrom c lo (Memory.insert m a b) = true := by
  induction m generalizing lo with
  | nil => simp [Memory.insert, Memory.wfFrom, hlo, ha, hb]
  | cons e m ih =>
    obtain ⟨k, d⟩ := e
    have hk : k ≠ a := hn (k, d) (by simp)
    simp only [Memory.wfFrom, Bool.and_eq_true, decide_eq_true_eq] at hm
    by_cases hlt : k < a
    · have h := ih (lo := k + 1) (by omega) hm.2 (fun e he => hn e (by simp [he]))
      simp [Memory.insert, hlt, Memory.wfFrom, hm.1, h]
    · have h1 : a + 1 ≤ k := by omega
      simp [Memory.insert, hlt, Memory.wfFrom, hlo, ha, hb, h1, hm.1, hm.2]

/-- Every write below 4096 keeps the canonical form. -/
theorem Memory.wf_write {c : Config} {m : Memory} {a : Nat} (b : Byte) (ha : a < memSize) (hm : Memory.wf c m = true) :
    Memory.wf c (Memory.write c m a b) = true := by
  unfold Memory.write
  split
  · exact Memory.wfFrom_erase a hm
  · next hb =>
    refine Memory.wfFrom_insert (Nat.zero_le _) ha hb (Memory.wfFrom_erase a hm) ?_
    intro e he
    simpa using (List.mem_filter.mp he).2

/-! ## The same, of a state -/

/-- Read after write (20_memory.md R44, R45): at an address below 4096 the byte written, everywhere else what was there. -/
theorem State.memByte_writeByte (s : State) (a a' : Nat) (b : Byte) :
    (s.writeByte a b).memByte a' = if a' = a ∧ a < 4096 then b else s.memByte a' := by
  by_cases ha : a < memSize
  · have : (s.writeByte a b).memByte a' = Memory.read s.cfg (Memory.write s.cfg s.mem a b) a' := by
      simp [State.writeByte, State.memByte, ha]
    rw [this, Memory.read_write]
    simp [ha, State.memByte]
  · simp [State.writeByte, ha]

/-- A write keeps the canonical form, whatever its address. -/
theorem State.wf_writeByte {s : State} (a : Nat) (b : Byte) (h : Memory.wf s.cfg s.mem = true) :
    Memory.wf (s.writeByte a b).cfg (s.writeByte a b).mem = true := by
  unfold State.writeByte
  split
  · next ha => exact Memory.wf_write b ha h
  · exact h

/-- The memory of the reset state is in canonical form. -/
theorem State.reset_mem_wf : Memory.wf State.reset.cfg State.reset.mem = true := rfl

/-- An image keeps the canonical form. -/
theorem State.wf_writeImage {s : State} (a : Nat) (image : List Byte) (h : Memory.wf s.cfg s.mem = true) :
    Memory.wf (s.writeImage a image).cfg (s.writeImage a image).mem = true := by
  induction image generalizing s a with
  | nil => exact h
  | cons b bs ih => exact ih (a + 1) (State.wf_writeByte a b h)

end Sys2Proof.Machine
end

