-- ==== Sys2Proof/Laws/Ops.lean ====
section
/-! SUPPORT. One lemma for each accessor and shared operation: everything it can do. -/

namespace Sys2Proof.Machine

/-! ## Accessors after updates -/

@[simp] theorem State.reg_setReg (s : State) (r q : RegIx) (b : Byte) :
    (s.setReg r b).reg q = if q = r then b else s.reg q := by
  by_cases h : q = r
  · subst h; simp [State.reg]
  · have hv : r.val ≠ q.val := fun e => h (Fin.ext e.symm)
    simp [State.reg, h, Vector.getElem_set_ne, hv]

@[simp] theorem State.cell_setCell (s : State) (x x' : Fin 64) (y y' : Fin 32) (b : Bool) :
    (s.setCell x y b).cell x' y' = if x' = x ∧ y' = y then b else s.cell x' y' := by
  by_cases hy : y' = y
  · subst hy
    by_cases hx : x' = x
    · subst hx; simp [State.cell, State.setCell]
    · have hv : x.val ≠ x'.val := fun e => hx (Fin.ext e.symm)
      simp [State.cell, State.setCell, hx, Vector.getElem_set_ne, hv]
  · have hv : y.val ≠ y'.val := fun e => hy (Fin.ext e.symm)
    simp [State.cell, State.setCell, hy, Vector.getElem_set_ne, hv]

@[simp] theorem State.cell_clearDisplay (s : State) (x : Fin 64) (y : Fin 32) : s.clearDisplay.cell x y = false := by
  simp [State.cell]

/-- A register reads the same in states with the same V. -/
theorem State.reg_congr {s t : State} (h : t.v = s.v) (r : RegIx) : t.reg r = s.reg r := by simp [State.reg, h]

/-- A cell reads the same in states with the same DISP. -/
theorem State.cell_congr {s t : State} (h : t.disp = s.disp) (x : Fin 64) (y : Fin 32) : t.cell x y = s.cell x y := by
  simp [State.cell, h]

/-- A byte of memory reads the same in states with the same memory and configuration. -/
theorem State.memByte_congr {s t : State} (hm : t.mem = s.mem) (hc : t.cfg = s.cfg) (a : Nat) : t.memByte a = s.memByte a := by
  simp [State.memByte, hm, hc]

@[simp] theorem State.cell_setReg (s : State) (r : RegIx) (b : Byte) (x' : Fin 64) (y' : Fin 32) : (s.setReg r b).cell x' y' = s.cell x' y' := by simp [State.cell]
@[simp] theorem State.memByte_setReg (s : State) (r : RegIx) (b : Byte) (a' : Nat) : (s.setReg r b).memByte a' = s.memByte a' := by simp [State.memByte]
@[simp] theorem State.reg_setI (s : State) (w : Word) (q : RegIx) : (s.setI w).reg q = s.reg q := by simp [State.reg]
@[simp] theorem State.cell_setI (s : State) (w : Word) (x' : Fin 64) (y' : Fin 32) : (s.setI w).cell x' y' = s.cell x' y' := by simp [State.cell]
@[simp] theorem State.memByte_setI (s : State) (w : Word) (a' : Nat) : (s.setI w).memByte a' = s.memByte a' := by simp [State.memByte]
@[simp] theorem State.reg_setDt (s : State) (b : Byte) (q : RegIx) : (s.setDt b).reg q = s.reg q := by simp [State.reg]
@[simp] theorem State.cell_setDt (s : State) (b : Byte) (x' : Fin 64) (y' : Fin 32) : (s.setDt b).cell x' y' = s.cell x' y' := by simp [State.cell]
@[simp] theorem State.memByte_setDt (s : State) (b : Byte) (a' : Nat) : (s.setDt b).memByte a' = s.memByte a' := by simp [State.memByte]
@[simp] theorem State.reg_setSt (s : State) (b : Byte) (q : RegIx) : (s.setSt b).reg q = s.reg q := by simp [State.reg]
@[simp] theorem State.cell_setSt (s : State) (b : Byte) (x' : Fin 64) (y' : Fin 32) : (s.setSt b).cell x' y' = s.cell x' y' := by simp [State.cell]
@[simp] theorem State.memByte_setSt (s : State) (b : Byte) (a' : Nat) : (s.setSt b).memByte a' = s.memByte a' := by simp [State.memByte]
@[simp] theorem State.reg_setPc (s : State) (w : Word) (q : RegIx) : (s.setPc w).reg q = s.reg q := by simp [State.reg]
@[simp] theorem State.cell_setPc (s : State) (w : Word) (x' : Fin 64) (y' : Fin 32) : (s.setPc w).cell x' y' = s.cell x' y' := by simp [State.cell]
@[simp] theorem State.memByte_setPc (s : State) (w : Word) (a' : Nat) : (s.setPc w).memByte a' = s.memByte a' := by simp [State.memByte]
@[simp] theorem State.reg_advance (s : State) (q : RegIx) : (s.advance).reg q = s.reg q := by simp [State.reg]
@[simp] theorem State.cell_advance (s : State) (x' : Fin 64) (y' : Fin 32) : (s.advance).cell x' y' = s.cell x' y' := by simp [State.cell]
@[simp] theorem State.memByte_advance (s : State) (a' : Nat) : (s.advance).memByte a' = s.memByte a' := by simp [State.memByte]
@[simp] theorem State.reg_skip (s : State) (q : RegIx) : (s.skip).reg q = s.reg q := by simp [State.reg]
@[simp] theorem State.cell_skip (s : State) (x' : Fin 64) (y' : Fin 32) : (s.skip).cell x' y' = s.cell x' y' := by simp [State.cell]
@[simp] theorem State.memByte_skip (s : State) (a' : Nat) : (s.skip).memByte a' = s.memByte a' := by simp [State.memByte]
@[simp] theorem State.reg_rewind (s : State) (q : RegIx) : (s.rewind).reg q = s.reg q := by simp [State.reg]
@[simp] theorem State.cell_rewind (s : State) (x' : Fin 64) (y' : Fin 32) : (s.rewind).cell x' y' = s.cell x' y' := by simp [State.cell]
@[simp] theorem State.memByte_rewind (s : State) (a' : Nat) : (s.rewind).memByte a' = s.memByte a' := by simp [State.memByte]
@[simp] theorem State.reg_raise (s : State) (e : Abnormal) (q : RegIx) : (s.raise e).reg q = s.reg q := by simp [State.reg]
@[simp] theorem State.cell_raise (s : State) (e : Abnormal) (x' : Fin 64) (y' : Fin 32) : (s.raise e).cell x' y' = s.cell x' y' := by simp [State.cell]
@[simp] theorem State.memByte_raise (s : State) (e : Abnormal) (a' : Nat) : (s.raise e).memByte a' = s.memByte a' := by simp [State.memByte]
@[simp] theorem State.reg_setCell (s : State) (x : Fin 64) (y : Fin 32) (b : Bool) (q : RegIx) : (s.setCell x y b).reg q = s.reg q := by simp [State.reg]
@[simp] theorem State.memByte_setCell (s : State) (x : Fin 64) (y : Fin 32) (b : Bool) (a' : Nat) : (s.setCell x y b).memByte a' = s.memByte a' := by simp [State.memByte]
@[simp] theorem State.reg_clearDisplay (s : State) (q : RegIx) : (s.clearDisplay).reg q = s.reg q := by simp [State.reg]
@[simp] theorem State.memByte_clearDisplay (s : State) (a' : Nat) : (s.clearDisplay).memByte a' = s.memByte a' := by simp [State.memByte]
@[simp] theorem State.reg_rndDrawn (s : State) (q : RegIx) : (s.rndDrawn).reg q = s.reg q := by simp [State.reg]
@[simp] theorem State.cell_rndDrawn (s : State) (x' : Fin 64) (y' : Fin 32) : (s.rndDrawn).cell x' y' = s.cell x' y' := by simp [State.cell]
@[simp] theorem State.memByte_rndDrawn (s : State) (a' : Nat) : (s.rndDrawn).memByte a' = s.memByte a' := by simp [State.memByte]
@[simp] theorem State.reg_hostTick (s : State) (q : RegIx) : (s.hostTick).reg q = s.reg q := by simp [State.reg]
@[simp] theorem State.cell_hostTick (s : State) (x' : Fin 64) (y' : Fin 32) : (s.hostTick).cell x' y' = s.cell x' y' := by simp [State.cell]
@[simp] theorem State.memByte_hostTick (s : State) (a' : Nat) : (s.hostTick).memByte a' = s.memByte a' := by simp [State.memByte]
@[simp] theorem State.reg_hostSetKeys (s : State) (k : BitVec 16) (q : RegIx) : (s.hostSetKeys k).reg q = s.reg q := by simp [State.reg]
@[simp] theorem State.cell_hostSetKeys (s : State) (k : BitVec 16) (x' : Fin 64) (y' : Fin 32) : (s.hostSetKeys k).cell x' y' = s.cell x' y' := by simp [State.cell]
@[simp] theorem State.memByte_hostSetKeys (s : State) (k : BitVec 16) (a' : Nat) : (s.hostSetKeys k).memByte a' = s.memByte a' := by simp [State.memByte]
@[simp] theorem State.reg_writeByte (s : State) (a : Nat) (b : Byte) (q : RegIx) : (s.writeByte a b).reg q = s.reg q := by simp [State.reg]
@[simp] theorem State.cell_writeByte (s : State) (a : Nat) (b : Byte) (x' : Fin 64) (y' : Fin 32) : (s.writeByte a b).cell x' y' = s.cell x' y' := by simp [State.cell]

/-! ## Shared operations -/

/-- The range check: the effect when the range fits, else STATUS alone changes (20_memory.md R46). -/
theorem State.checked_cases (s : State) (c : Nat) (t : State) :
    (s.rangeOk c ∧ s.checked c t = t) ∨ (¬ s.rangeOk c ∧ s.checked c t = s.raise .memFault) := by
  unfold State.checked
  split
  · exact .inl ⟨‹_›, rfl⟩
  · exact .inr ⟨‹_›, rfl⟩

/-- A push succeeds exactly below 16 entries, and then changes SP and one entry (42_control_flow.md R142). -/
theorem State.push_cases (s : State) (w : Word) :
    (∃ h : s.sp.val < 16, s.push w = some { s with stack := s.stack.set s.sp.val w h, sp := ⟨s.sp.val + 1, Nat.succ_lt_succ h⟩ }) ∨
    (s.sp.val = 16 ∧ s.push w = none) := by
  unfold State.push
  by_cases h : s.sp.val < 16
  · exact .inl ⟨h, by simp [h]⟩
  · have := s.sp.isLt
    exact .inr ⟨by omega, by simp [h]⟩

/-- A pop succeeds exactly above 0 entries, reads the entry below SP and changes SP alone (42_control_flow.md R140). -/
theorem State.pop_cases (s : State) :
    (∃ (h : s.sp.val - 1 < 16) (h' : s.sp.val - 1 < 17), 0 < s.sp.val ∧
      s.pop = some (s.stack[s.sp.val - 1], { s with sp := ⟨s.sp.val - 1, h'⟩ })) ∨
    (s.sp.val = 0 ∧ s.pop = none) := by
  by_cases h : 0 < s.sp.val
  · have := s.sp.isLt
    exact .inl ⟨by omega, by omega, h, by simp [State.pop, h]⟩
  · exact .inr ⟨by omega, by simp [State.pop, h]⟩

/-- A conditional skip changes PC alone (40_step_cycle.md R109). -/
theorem State.skipIf_eq (s : State) (c : Bool) : s.skipIf c = s.setPc (if c then s.pc + 2 else s.pc) := by
  cases c <;> rfl

/-- The result and then the flag: the flag wins at V[0xF] (10_state.md R12). -/
theorem State.reg_setResultFlag (s : State) (x q : RegIx) (a f : Byte) :
    (s.setResultFlag x a f).reg q = if q = regF then f else if q = x then a else s.reg q := by
  simp [State.setResultFlag]

/-- A flag is 0 or 1 (10_state.md R11). -/
theorem flagByte_cases (b : Bool) : flagByte b = 0 ∨ flagByte b = 1 := by cases b <;> simp [flagByte]

/-- The registers of a block transfer are those up to `x`. -/
@[simp] theorem mem_regsUpTo (x r : RegIx) : r ∈ regsUpTo x ↔ r ≤ x := by simp [regsUpTo]

/-- One pixel: its cell is toggled, and the flag is set on a collision (44_display.md R181). -/
theorem State.cell_drawPixel (s : State) (px x : Fin 64) (py y : Fin 32) :
    (s.drawPixel px py).cell x y = if x = px ∧ y = py then !s.cell x y else s.cell x y := by
  unfold State.drawPixel
  by_cases h : x = px ∧ y = py
  · obtain ⟨rfl, rfl⟩ := h; simp
  · split <;> simp [h]

/-- One pixel: V[0xF] becomes 1 on a collision, and no other register changes. -/
theorem State.reg_drawPixel (s : State) (px : Fin 64) (py : Fin 32) (r : RegIx) :
    (s.drawPixel px py).reg r = if r = regF ∧ s.cell px py = true then 1 else s.reg r := by
  unfold State.drawPixel
  by_cases hc : s.cell px py = true
  · simp [hc]
  · simp [hc]

/-! ## Frames -/

/-- Sameness of a part composes. -/
theorem Part.Same.trans {p : Part} {s t u : State} (h : p.Same s t) (h' : p.Same t u) : p.Same s u := by
  cases p <;> exact Eq.trans h' h

/-- Nothing has changed. -/
theorem OnlyChanges.refl (w : Part → Prop) (s : State) : OnlyChanges w s s := by
  intro p _; cases p <;> rfl

/-- A frame may name more than what has changed. -/
theorem OnlyChanges.mono {w w' : Part → Prop} {s t : State} (h : OnlyChanges w s t) (hw : ∀ p, w p → w' p) :
    OnlyChanges w' s t := fun p hp => h p (fun hwp => hp (hw p hwp))

/-- Frames compose. -/
theorem OnlyChanges.trans {w : Part → Prop} {s t u : State} (h : OnlyChanges w s t) (h' : OnlyChanges w t u) :
    OnlyChanges w s u := fun p hp => (h p hp).trans (h' p hp)

/-- Taking an abnormal outcome changes STATUS alone (60_exceptions.md R208). -/
theorem OnlyChanges.raise (s : State) (e : Abnormal) : OnlyChanges (fun p => p = .status) s (s.raise e) := by
  intro p hp; cases p <;> simp_all [Part.Same]

/-- A frame of every round is a frame of the loop. -/
theorem OnlyChanges.foldl {α : Type} {w : Part → Prop} {f : State → α → State} {l : List α}
    (h : ∀ s, ∀ a ∈ l, OnlyChanges w s (f s a)) (s : State) : OnlyChanges w s (l.foldl f s) := by
  induction l generalizing s with
  | nil => exact OnlyChanges.refl _ _
  | cons a l ih => exact (h s a (by simp)).trans (ih (fun s b hb => h s b (by simp [hb])) _)

/-- The range check adds STATUS to the frame of the effect. -/
theorem OnlyChanges.checked {w : Part → Prop} {s : State} {c : Nat} {t : State} (hw : w .status) (h : OnlyChanges w s t) :
    OnlyChanges w s (s.checked c t) := by
  rcases s.checked_cases c t with ⟨_, e⟩ | ⟨_, e⟩ <;> rw [e]
  · exact h
  · exact (OnlyChanges.raise _ _).mono (by rintro p rfl; exact hw)

/-- A register write changes that register alone. -/
theorem OnlyChanges.setReg {w : Part → Prop} (s : State) (r : RegIx) (b : Byte) (hw : w (.reg r)) :
    OnlyChanges w s (s.setReg r b) := by
  intro p hp; cases p <;> simp_all [Part.Same]; rintro rfl; exact absurd hw hp

/-- A byte write changes that byte alone. -/
theorem OnlyChanges.writeByte {w : Part → Prop} (s : State) (a : Nat) (b : Byte) (hw : w (.memByte a)) :
    OnlyChanges w s (s.writeByte a b) := by
  intro p hp; cases p <;> simp_all [Part.Same, State.memByte_writeByte]; rintro rfl; exact absurd hw hp

/-! ## The operations of the total order -/

/-- Everything one step can be: the operation its schedule names next (20_memory.md R53). -/
theorem step_cases (s : State) :
    (s.schedule = [] ∧ step s = coreStep s) ∨
    (∃ rest, s.schedule = .step :: rest ∧ step s = coreStep { s with schedule := rest }) ∨
    (∃ rest, s.schedule = .tick :: rest ∧ step s = .next (State.hostTick { s with schedule := rest })) ∨
    (∃ k rest, s.schedule = .setKeys k :: rest ∧ step s = .next (State.hostSetKeys { s with schedule := rest } k)) ∨
    (∃ rest, s.schedule = .reset :: rest ∧ step s = .next (State.hostReset { s with schedule := rest })) ∨
    (∃ image rest, s.schedule = .load image :: rest ∧ step s = .next (State.hostLoad { s with schedule := rest } image)) := by
  unfold step nextOperation
  split <;> simp_all

/-- Everything one STEP of the core can be (40_step_cycle.md R100). -/
theorem coreStep_cases (s : State) :
    (s.status ≠ .running ∧ coreStep s = .next s) ∨
    (s.status = .running ∧ s.canFetch = false ∧ coreStep s = .next (s.raise .haltPc)) ∨
    (s.status = .running ∧ s.canFetch = true ∧ coreStep s = exec (decode s.fetchWord) s.advance) := by
  unfold coreStep
  by_cases h : s.status = .running <;> by_cases hf : s.canFetch = true <;> simp [h, hf]

end Sys2Proof.Machine
end

