-- ==== Sys2Proof/Laws/Exec.lean ====
section
/-! SUPPORT. Said once for all instructions: what each may change at all (10_state.md R29, column "written by"). -/

namespace Sys2Proof.Machine

/-- The parts an instruction may change in its execute phase, STATUS where it can fault. -/
def MayWrite (i : Instr) (p : Part) : Prop :=
  match i with
  | .cls _ => ∃ x y, p = .cell x y
  | .ret _ => p = .pc ∨ p = .sp ∨ p = .status
  | .jp _ | .jpV0 _ | .seImm _ _ | .sneImm _ _ | .seReg _ _ _ | .sneReg _ _ _ | .skp _ | .sknp _ => p = .pc
  | .call _ => p = .pc ∨ p = .sp ∨ p = .status ∨ ∃ k, p = .stackEntry k
  | .ldImm x _ | .addImm x _ | .ldReg x _ | .orReg x _ | .andReg x _ | .xorReg x _ | .ldVxDt x => p = .reg x
  | .addReg x _ | .subReg x _ | .shrReg x _ | .subnReg x _ | .shlReg x _ => p = .reg x ∨ p = .reg regF
  | .ldI _ | .addI _ | .ldFont _ => p = .i
  | .rnd x _ => p = .reg x ∨ p = .rndDraws
  | .drw _ _ _ => p = .status ∨ p = .reg regF ∨ ∃ x y, p = .cell x y
  | .ldVxKey x => p = .reg x ∨ p = .pc
  | .ldDtVx _ => p = .dt
  | .ldStVx _ => p = .st
  | .storeBcd _ | .storeRegs _ => p = .status ∨ ∃ a, p = .memByte a
  | .loadRegs x => p = .status ∨ ∃ r : RegIx, r ≤ x ∧ p = .reg r
  | .nop _ => False

/-- The frame of every instruction. -/
theorem exec_frame {i : Instr} {s t : State} (h : exec i s = .next t) : OnlyChanges (MayWrite i) s t := by
  cases i <;> simp only [exec] at h
  case cls => injection h with h; subst h; intro p hp; cases p <;> simp_all [Part.Same, MayWrite]
  case ret =>
    injection h with h; subst h
    rcases s.pop_cases with ⟨_, _, _, e⟩ | ⟨_, e⟩ <;> rw [e] <;> intro p hp <;> cases p <;> simp_all [Part.Same, MayWrite] <;> rfl
  case call =>
    injection h with h; subst h
    rcases s.push_cases s.pc with ⟨_, e⟩ | ⟨_, e⟩ <;> rw [e] <;> intro p hp <;> cases p <;> simp_all [Part.Same, MayWrite] <;> rfl
  case storeBcd =>
    injection h with h; subst h
    refine OnlyChanges.checked (.inl rfl) ?_
    exact ((OnlyChanges.writeByte _ _ _ (.inr ⟨_, rfl⟩)).trans (.writeByte _ _ _ (.inr ⟨_, rfl⟩))).trans
      (.writeByte _ _ _ (.inr ⟨_, rfl⟩))
  case storeRegs =>
    injection h with h; subst h
    refine OnlyChanges.checked (.inl rfl) ?_
    exact OnlyChanges.foldl (fun s a _ => .writeByte _ _ _ (.inr ⟨_, rfl⟩)) _
  case loadRegs x =>
    injection h with h; subst h
    refine OnlyChanges.checked (.inl rfl) ?_
    exact OnlyChanges.foldl (fun s a ha => .setReg _ _ _ (.inr ⟨a, by simpa using ha, rfl⟩)) _
  case drw =>
    injection h with h; subst h
    refine OnlyChanges.checked (.inl rfl) ?_
    refine (OnlyChanges.setReg s regF 0 (.inr (.inl rfl))).trans ?_
    refine OnlyChanges.foldl (fun s a ha => OnlyChanges.foldl (fun s c hc => ?_) _) _
    unfold State.drawBit
    split
    · intro p hp; unfold State.drawPixel; split <;> cases p <;> simp_all [Part.Same, MayWrite]
    · exact OnlyChanges.refl _ _
  case ldVxKey x =>
    injection h with h; subst h
    split <;> intro p hp <;> cases p <;> simp_all [Part.Same, MayWrite]
  case rnd x kk =>
    injection h with h; subst h
    intro p hp; cases p <;> simp_all [Part.Same, MayWrite, State.maskedRnd]
  case addReg | subReg | subnReg | shrReg | shlReg =>
    injection h with h; subst h; intro p hp; cases p <;> simp_all [Part.Same, MayWrite, State.setResultFlag]
  all_goals
    injection h with h; subst h; intro p hp; cases p <;> simp_all [Part.Same, MayWrite, State.skipIf_eq]

end Sys2Proof.Machine
end

