-- ==== Sys2Proof/Laws/Loops.lean ====
section
/-! SUPPORT. What the loops do: the block transfers of FX55 and FX65 (43_memory_timer.md R167, R168), and the sprite draw of DXYN
(44_display.md R181), whose one lemma is the set of cells it toggles. -/

namespace Sys2Proof.Machine

/-! ## Block transfers -/

/-- A loop of stores changes at most the bytes it stores to. -/
theorem writeLoop_frame (l : List RegIx) (s : State) (p : Part) (hp : ∀ r ∈ l, p ≠ .memByte (s.i.toNat + r.val)) :
    p.Same s (l.foldl (fun t r => t.writeByte (t.ea r.val) (t.reg r)) s) := by
  induction l generalizing s with
  | nil => cases p <;> rfl
  | cons r l ih =>
    have h1 : p.Same s (s.writeByte (s.ea r.val) (s.reg r)) := by
      have := hp r (by simp)
      cases p <;> try (simp [Part.Same]; done)
      case memByte a => simp [Part.Same, State.memByte_writeByte, State.ea]; intro h; simp_all
    exact h1.trans (ih _ (by simpa using fun q hq => hp q (by simp [hq])))

/-- A loop of stores leaves every register in its byte. -/
theorem writeLoop_value (l : List RegIx) (s : State) (hb : ∀ r ∈ l, s.i.toNat + r.val < 4096) (hn : l.Nodup) :
    ∀ r ∈ l, (l.foldl (fun t r => t.writeByte (t.ea r.val) (t.reg r)) s).memByte (s.i.toNat + r.val) = s.reg r := by
  induction l generalizing s with
  | nil => simp
  | cons q l ih =>
    intro r hr
    rw [List.foldl_cons]
    simp only [List.nodup_cons] at hn
    rcases List.mem_cons.mp hr with rfl | hr
    · have := writeLoop_frame l (s.writeByte (s.ea r.val) (s.reg r)) (.memByte (s.i.toNat + r.val)) (by
        intro q hq; simp; intro h; exact hn.1 (by have : r = q := Fin.ext h; rwa [this]))
      have h := hb r (by simp)
      simp [Part.Same] at this
      rw [this]; simp [State.memByte_writeByte, State.ea, h]
    · have := ih (s.writeByte (s.ea q.val) (s.reg q)) (by simpa using fun r hr => hb r (by simp [hr])) hn.2 r hr
      simpa using this

/-- A loop of loads changes at most the registers it loads. -/
theorem readLoop_frame (l : List RegIx) (s : State) (p : Part) (hp : ∀ r ∈ l, p ≠ .reg r) :
    p.Same s (l.foldl (fun t r => t.setReg r (t.memByte (t.ea r.val))) s) := by
  induction l generalizing s with
  | nil => cases p <;> rfl
  | cons r l ih =>
    have h1 : p.Same s (s.setReg r (s.memByte (s.ea r.val))) := by
      have := hp r (by simp)
      cases p <;> simp_all [Part.Same]
    exact h1.trans (ih _ (fun q hq => hp q (by simp [hq])))

/-- A loop of loads leaves every byte in its register. -/
theorem readLoop_value (l : List RegIx) (s : State) (hn : l.Nodup) :
    ∀ r ∈ l, (l.foldl (fun t r => t.setReg r (t.memByte (t.ea r.val))) s).reg r = s.memByte (s.i.toNat + r.val) := by
  induction l generalizing s with
  | nil => simp
  | cons q l ih =>
    intro r hr
    rw [List.foldl_cons]
    simp only [List.nodup_cons] at hn
    rcases List.mem_cons.mp hr with rfl | hr
    · have := readLoop_frame l (s.setReg r (s.memByte (s.ea r.val))) (.reg r) (by
        intro q hq; simp; rintro rfl; exact hn.1 hq)
      simp [Part.Same] at this
      rw [this]; simp [State.ea]
    · simpa using ih (s.setReg q (s.memByte (s.ea q.val))) hn.2 r hr

theorem nodup_regsUpTo (x : RegIx) : (regsUpTo x).Nodup := (List.nodup_finRange 16).filter _

/-! ## The sprite draw -/

/-- From `s` to `t` the cells of `H` are toggled, each once, V[0xF] becomes 1 if one of them was on, and nothing else changes. -/
structure Draws (H : Fin 64 → Fin 32 → Prop) (s t : State) : Prop where
  frame : OnlyChanges (fun p => p = .reg 0xF ∨ ∃ px py, p = .cell px py) s t
  hit : ∀ x y, H x y → t.cell x y = !s.cell x y
  miss : ∀ x y, ¬ H x y → t.cell x y = s.cell x y
  on : (∃ x y, H x y ∧ s.cell x y = true) → t.reg 0xF = 1
  off : ¬ (∃ x y, H x y ∧ s.cell x y = true) → t.reg 0xF = s.reg 0xF

/-- An empty set. -/
theorem Draws.nil (s : State) {H : Fin 64 → Fin 32 → Prop} (h : ∀ x y, ¬ H x y) : Draws H s s :=
  ⟨OnlyChanges.refl _ _, fun x y hh => absurd hh (h x y), fun _ _ _ => rfl, fun ⟨x, y, hh, _⟩ => absurd hh (h x y), fun _ => rfl⟩

/-- Two draws over disjoint sets are one draw over their union. -/
theorem Draws.comp {H K L : Fin 64 → Fin 32 → Prop} {s t u : State} (h : Draws H s t) (k : Draws K t u)
   (hd : ∀ x y, H x y → ¬ K x y) (hl : ∀ x y, L x y ↔ (H x y ∨ K x y)) : Draws L s u := by
  have kon : (∃ x y, K x y ∧ s.cell x y = true) ↔ (∃ x y, K x y ∧ t.cell x y = true) := by
    constructor
    · rintro ⟨x, y, a, b⟩; exact ⟨x, y, a, by rw [h.miss x y (fun hh => hd x y hh a)]; exact b⟩
    · rintro ⟨x, y, a, b⟩; exact ⟨x, y, a, by rw [← h.miss x y (fun hh => hd x y hh a)]; exact b⟩
  refine ⟨h.frame.trans k.frame, ?_, ?_, ?_, ?_⟩
  · intro x y hl'
    rcases (hl x y).mp hl' with a | a
    · rw [k.miss x y (hd x y a), h.hit x y a]
    · rw [k.hit x y a, h.miss x y (fun hh => hd x y hh a)]
  · intro x y hn
    rw [hl, not_or] at hn
    rw [k.miss x y hn.2, h.miss x y hn.1]
  · rintro ⟨x, y, hl', b⟩
    by_cases hk : ∃ x y, K x y ∧ t.cell x y = true
    · exact k.on hk
    · rw [k.off hk]
      apply h.on
      rcases (hl x y).mp hl' with a | a
      · exact ⟨x, y, a, b⟩
      · exact absurd (kon.mp ⟨x, y, a, b⟩) hk
  · intro hn
    rw [k.off, h.off]
    · rintro ⟨x, y, a, b⟩; exact hn ⟨x, y, (hl x y).mpr (.inl a), b⟩
    · rw [← kon]; rintro ⟨x, y, a, b⟩; exact hn ⟨x, y, (hl x y).mpr (.inr a), b⟩

/-- One pixel. -/
theorem State.drawPixel_draws (s : State) (px : Fin 64) (py : Fin 32) :
    Draws (fun x y => x = px ∧ y = py) s (s.drawPixel px py) := by
  refine ⟨?_, ?_, ?_, ?_, ?_⟩
  · intro p hp
    unfold State.drawPixel
    split <;> cases p <;> simp_all [Part.Same, regF]
  · intro x y h; simp [State.cell_drawPixel, h]
  · intro x y h; simp [State.cell_drawPixel, h]
  · rintro ⟨x, y, ⟨rfl, rfl⟩, b⟩; simp [State.reg_drawPixel, b, regF]
  · intro h; rw [State.reg_drawPixel, if_neg]; rintro ⟨-, b⟩; exact h ⟨px, py, ⟨rfl, rfl⟩, b⟩

/-- One bit of a sprite. -/
theorem State.drawBit_draws (s : State) (b : Byte) (x0 y0 r c : Nat) :
    Draws (fun x y => b.getLsbD (7 - c) = true ∧ x.val = (x0 + c) % 64 ∧ y.val = (y0 + r) % 32) s (s.drawBit b x0 y0 r c) := by
  unfold State.drawBit
  split
  · next hb =>
    have := State.drawPixel_draws s (Fin.ofNat 64 (x0 + c)) (Fin.ofNat 32 (y0 + r))
    have e : (fun x y => b.getLsbD (7 - c) = true ∧ x.val = (x0 + c) % 64 ∧ y.val = (y0 + r) % 32) =
        (fun (x : Fin 64) (y : Fin 32) => x = Fin.ofNat 64 (x0 + c) ∧ y = Fin.ofNat 32 (y0 + r)) := by
      funext x y; simp [hb, Fin.ext_iff]
    rw [e]; exact this
  · next hb => exact Draws.nil s (fun x y h => hb h.1)

/-- The first `m` columns of a row: their cells are distinct. -/
theorem drawColumns_draws (b : Byte) (x0 y0 r m : Nat) (hm : m ≤ 8) (s : State) :
    Draws (fun x y => ∃ c, c < m ∧ b.getLsbD (7 - c) = true ∧ x.val = (x0 + c) % 64 ∧ y.val = (y0 + r) % 32) s
     ((List.range m).foldl (fun t c => t.drawBit b x0 y0 r c) s) := by
  induction m with
  | zero => exact Draws.nil s (by simp)
  | succ m ih =>
    rw [List.range_succ, List.foldl_append, List.foldl_cons, List.foldl_nil]
    refine (ih (by omega)).comp (State.drawBit_draws _ b x0 y0 r m) ?_ ?_
    · rintro x y ⟨c, h1, h2, h3, h4⟩ ⟨_, k, _⟩; omega
    · intro x y; constructor
      · rintro ⟨c, h, rest⟩
        by_cases hc : c < m
        · exact .inl ⟨c, hc, rest⟩
        · have : c = m := by omega
          subst this; exact .inr rest
      · rintro (⟨c, h, rest⟩ | rest)
        · exact ⟨c, by omega, rest⟩
        · exact ⟨m, by omega, rest⟩

/-- The sprite: exactly the cells its 1 bits hit. -/
theorem State.drawSprite_draws (x0 y0 n : Nat) (hn : n ≤ 16) (s : State) :
    Draws (fun x y => SpriteHits s x0 y0 n x y) s (s.drawSprite x0 y0 n) := by
  unfold State.drawSprite
  induction n with
  | zero => exact Draws.nil s (by simp [SpriteHits])
  | succ n ih =>
    rw [List.range_succ, List.foldl_append, List.foldl_cons, List.foldl_nil]
    have ih := ih (by omega)
    set t := (List.range n).foldl (fun t r => t.drawRow x0 y0 r) s with ht
    have hm : t.memByte (t.ea n) = s.memByte (s.i.toNat + n) := by
      have h1 : t.i = s.i := ih.frame .i (by simp)
      have h2 : ∀ a, t.memByte a = s.memByte a := fun a => ih.frame (.memByte a) (by simp)
      simp [State.ea, h1, h2]
    have := drawColumns_draws (t.memByte (t.ea n)) x0 y0 n 8 (le_refl _) t
    rw [hm] at this
    refine ih.comp (K := fun x y => ∃ c, c < 8 ∧ (s.memByte (s.i.toNat + n)).getLsbD (7 - c) = true ∧
      x.val = (x0 + c) % 64 ∧ y.val = (y0 + n) % 32) ?_ ?_ ?_
    · unfold State.drawRow; rw [hm]; exact this
    · rintro x y ⟨r, h, c, _, _, _, h1⟩ ⟨_, _, _, _, h2⟩; omega
    · intro x y; constructor
      · rintro ⟨r, h, rest⟩
        by_cases hr : r < n
        · exact .inl ⟨r, hr, rest⟩
        · have : r = n := by omega
          subst this; exact .inr rest
      · rintro (⟨r, h, rest⟩ | rest)
        · exact ⟨r, by omega, rest⟩
        · exact ⟨n, by omega, rest⟩

end Sys2Proof.Machine
end

