-- ==== Sys2Proof/Laws/PerInstr.lean ====
section
/-! SUPPORT. One lemma per constructor: its encoding lies in the row of spec/opcode_table.json that bears its name (30_encoding.md R76). -/

namespace Sys2Proof.Laws

/-! ## The bits of the formats (30_encoding.md R72) -/

theorem formatA_bit (t : Nibble) (nnn : Addr12) (k : Nat) :
    (formatA t nnn).getLsbD k = if k < 12 then nnn.getLsbD k else t.getLsbD (k - 12) := BitVec.getLsbD_append

theorem formatXK_bit (t x : Nibble) (kk : Byte) (k : Nat) :
    (formatXK t x kk).getLsbD k =
      if k < 8 then kk.getLsbD k else if k < 12 then x.getLsbD (k - 8) else t.getLsbD (k - 12) := by
  have h : (formatXK t x kk).getLsbD k = if k < 8 then kk.getLsbD k else (t ++ x).getLsbD (k - 8) := BitVec.getLsbD_append
  rw [h, BitVec.getLsbD_append]
  split <;> [rfl; (split <;> split <;> first | rfl | omega)]

theorem formatXYN_bit (t x y n : Nibble) (k : Nat) :
    (formatXYN t x y n).getLsbD k =
      if k < 4 then n.getLsbD k else if k < 8 then y.getLsbD (k - 4) else if k < 12 then x.getLsbD (k - 8)
      else t.getLsbD (k - 12) := by
  have h : (formatXYN t x y n).getLsbD k = if k < 4 then n.getLsbD k else (t ++ x ++ y).getLsbD (k - 4) := BitVec.getLsbD_append
  have h' : (t ++ x ++ y).getLsbD (k - 4) = if k - 4 < 4 then y.getLsbD (k - 4) else (t ++ x).getLsbD (k - 4 - 4) :=
    BitVec.getLsbD_append
  rw [h, h', BitVec.getLsbD_append]
  by_cases h4 : k < 4
  · simp [h4]
  · simp [h4, show k - 4 < 4 ↔ k < 8 by omega, show k - 4 - 4 = k - 8 by omega, show k - 8 < 4 ↔ k < 12 by omega,
      show k - 8 - 4 = k - 12 by omega]

/-! ## The formats under the masks of the opcode table -/

theorem formatA_maskT (t : Nibble) (nnn : Addr12) : formatA t nnn &&& 0xF000 = formatA t 0 := by
  apply BitVec.eq_of_getLsbD_eq
  intro k hk
  rw [BitVec.getLsbD_and, formatA_bit, formatA_bit]
  interval_cases k <;> simp

theorem formatXK_maskT (t x : Nibble) (kk : Byte) : formatXK t x kk &&& 0xF000 = formatXK t 0 0 := by
  apply BitVec.eq_of_getLsbD_eq
  intro k hk
  rw [BitVec.getLsbD_and, formatXK_bit, formatXK_bit]
  interval_cases k <;> simp

theorem formatXK_maskTKK (t x : Nibble) (kk : Byte) : formatXK t x kk &&& 0xF0FF = formatXK t 0 kk := by
  apply BitVec.eq_of_getLsbD_eq
  intro k hk
  rw [BitVec.getLsbD_and, formatXK_bit, formatXK_bit]
  interval_cases k <;> simp

theorem formatXYN_maskT (t x y n : Nibble) : formatXYN t x y n &&& 0xF000 = formatXYN t 0 0 0 := by
  apply BitVec.eq_of_getLsbD_eq
  intro k hk
  rw [BitVec.getLsbD_and, formatXYN_bit, formatXYN_bit]
  interval_cases k <;> simp

theorem formatXYN_maskTN (t x y n : Nibble) : formatXYN t x y n &&& 0xF00F = formatXYN t 0 0 n := by
  apply BitVec.eq_of_getLsbD_eq
  intro k hk
  rw [BitVec.getLsbD_and, formatXYN_bit, formatXYN_bit]
  interval_cases k <;> simp

/-! ## The family -/

/-- Every row of the opcode table that bears the instruction's name selects its word. -/
def EncodedInRow.Statement (i : Instr) : Prop := ∀ r ∈ opcodeRows, r.name = rowOf i → r.selects (encode i) = true

/-- The names of the rows are distinct, so a name finds its row. -/
theorem row_of_name : ∀ r ∈ opcodeRows, opcodeRows.find? (fun q => q.name == r.name) = some r := by decide

/-- How each lemma goes: the row found by name is `q`, and the word masked with the mask of `q` is the pattern of `q`. -/
theorem EncodedInRow.of_row {i : Instr} (q : OpcodeRow) (hq : opcodeRows.find? (fun q => q.name == rowOf i) = some q)
    (h : encode i &&& q.mask = q.pattern) : EncodedInRow.Statement i := by
  intro r hr hn
  have := row_of_name r hr
  rw [hn, hq] at this
  cases this
  simp [OpcodeRow.selects, h]

theorem EncodedInRow.cls (ign : Nibble) : EncodedInRow.Statement (.cls ign) :=
  EncodedInRow.of_row ⟨"00E0", 0x00E0, 0xF0FF⟩ rfl (formatXK_maskTKK _ _ _)

theorem EncodedInRow.ret (ign : Nibble) : EncodedInRow.Statement (.ret ign) :=
  EncodedInRow.of_row ⟨"00EE", 0x00EE, 0xF0FF⟩ rfl (formatXK_maskTKK _ _ _)

theorem EncodedInRow.jp (nnn : Addr12) : EncodedInRow.Statement (.jp nnn) :=
  EncodedInRow.of_row ⟨"1NNN", 0x1000, 0xF000⟩ rfl (formatA_maskT _ _)

theorem EncodedInRow.call (nnn : Addr12) : EncodedInRow.Statement (.call nnn) :=
  EncodedInRow.of_row ⟨"2NNN", 0x2000, 0xF000⟩ rfl (formatA_maskT _ _)

theorem EncodedInRow.seImm (x : RegIx) (kk : Byte) : EncodedInRow.Statement (.seImm x kk) :=
  EncodedInRow.of_row ⟨"3XKK", 0x3000, 0xF000⟩ rfl (formatXK_maskT _ _ _)

theorem EncodedInRow.sneImm (x : RegIx) (kk : Byte) : EncodedInRow.Statement (.sneImm x kk) :=
  EncodedInRow.of_row ⟨"4XKK", 0x4000, 0xF000⟩ rfl (formatXK_maskT _ _ _)

theorem EncodedInRow.seReg (x y : RegIx) (ign : Nibble) : EncodedInRow.Statement (.seReg x y ign) :=
  EncodedInRow.of_row ⟨"5XY_", 0x5000, 0xF000⟩ rfl (formatXYN_maskT _ _ _ _)

theorem EncodedInRow.ldImm (x : RegIx) (kk : Byte) : EncodedInRow.Statement (.ldImm x kk) :=
  EncodedInRow.of_row ⟨"6XKK", 0x6000, 0xF000⟩ rfl (formatXK_maskT _ _ _)

theorem EncodedInRow.addImm (x : RegIx) (kk : Byte) : EncodedInRow.Statement (.addImm x kk) :=
  EncodedInRow.of_row ⟨"7XKK", 0x7000, 0xF000⟩ rfl (formatXK_maskT _ _ _)

theorem EncodedInRow.ldReg (x y : RegIx) : EncodedInRow.Statement (.ldReg x y) :=
  EncodedInRow.of_row ⟨"8XY0", 0x8000, 0xF00F⟩ rfl (formatXYN_maskTN _ _ _ _)

theorem EncodedInRow.orReg (x y : RegIx) : EncodedInRow.Statement (.orReg x y) :=
  EncodedInRow.of_row ⟨"8XY1", 0x8001, 0xF00F⟩ rfl (formatXYN_maskTN _ _ _ _)

theorem EncodedInRow.andReg (x y : RegIx) : EncodedInRow.Statement (.andReg x y) :=
  EncodedInRow.of_row ⟨"8XY2", 0x8002, 0xF00F⟩ rfl (formatXYN_maskTN _ _ _ _)

theorem EncodedInRow.xorReg (x y : RegIx) : EncodedInRow.Statement (.xorReg x y) :=
  EncodedInRow.of_row ⟨"8XY3", 0x8003, 0xF00F⟩ rfl (formatXYN_maskTN _ _ _ _)

theorem EncodedInRow.addReg (x y : RegIx) : EncodedInRow.Statement (.addReg x y) :=
  EncodedInRow.of_row ⟨"8XY4", 0x8004, 0xF00F⟩ rfl (formatXYN_maskTN _ _ _ _)

theorem EncodedInRow.subReg (x y : RegIx) : EncodedInRow.Statement (.subReg x y) :=
  EncodedInRow.of_row ⟨"8XY5", 0x8005, 0xF00F⟩ rfl (formatXYN_maskTN _ _ _ _)

theorem EncodedInRow.shrReg (x y : RegIx) : EncodedInRow.Statement (.shrReg x y) :=
  EncodedInRow.of_row ⟨"8XY6", 0x8006, 0xF00F⟩ rfl (formatXYN_maskTN _ _ _ _)

theorem EncodedInRow.subnReg (x y : RegIx) : EncodedInRow.Statement (.subnReg x y) :=
  EncodedInRow.of_row ⟨"8XY7", 0x8007, 0xF00F⟩ rfl (formatXYN_maskTN _ _ _ _)

theorem EncodedInRow.shlReg (x y : RegIx) : EncodedInRow.Statement (.shlReg x y) :=
  EncodedInRow.of_row ⟨"8XYE", 0x800E, 0xF00F⟩ rfl (formatXYN_maskTN _ _ _ _)

theorem EncodedInRow.sneReg (x y : RegIx) (ign : Nibble) : EncodedInRow.Statement (.sneReg x y ign) :=
  EncodedInRow.of_row ⟨"9XY_", 0x9000, 0xF000⟩ rfl (formatXYN_maskT _ _ _ _)

theorem EncodedInRow.ldI (nnn : Addr12) : EncodedInRow.Statement (.ldI nnn) :=
  EncodedInRow.of_row ⟨"ANNN", 0xA000, 0xF000⟩ rfl (formatA_maskT _ _)

theorem EncodedInRow.jpV0 (nnn : Addr12) : EncodedInRow.Statement (.jpV0 nnn) :=
  EncodedInRow.of_row ⟨"BNNN", 0xB000, 0xF000⟩ rfl (formatA_maskT _ _)

theorem EncodedInRow.rnd (x : RegIx) (kk : Byte) : EncodedInRow.Statement (.rnd x kk) :=
  EncodedInRow.of_row ⟨"CXKK", 0xC000, 0xF000⟩ rfl (formatXK_maskT _ _ _)

theorem EncodedInRow.drw (x y : RegIx) (n : Nibble) : EncodedInRow.Statement (.drw x y n) :=
  EncodedInRow.of_row ⟨"DXYN", 0xD000, 0xF000⟩ rfl (formatXYN_maskT _ _ _ _)

theorem EncodedInRow.skp (x : RegIx) : EncodedInRow.Statement (.skp x) :=
  EncodedInRow.of_row ⟨"EX9E", 0xE09E, 0xF0FF⟩ rfl (formatXK_maskTKK _ _ _)

theorem EncodedInRow.sknp (x : RegIx) : EncodedInRow.Statement (.sknp x) :=
  EncodedInRow.of_row ⟨"EXA1", 0xE0A1, 0xF0FF⟩ rfl (formatXK_maskTKK _ _ _)

theorem EncodedInRow.ldVxDt (x : RegIx) : EncodedInRow.Statement (.ldVxDt x) :=
  EncodedInRow.of_row ⟨"FX07", 0xF007, 0xF0FF⟩ rfl (formatXK_maskTKK _ _ _)

theorem EncodedInRow.ldVxKey (x : RegIx) : EncodedInRow.Statement (.ldVxKey x) :=
  EncodedInRow.of_row ⟨"FX0A", 0xF00A, 0xF0FF⟩ rfl (formatXK_maskTKK _ _ _)

theorem EncodedInRow.ldDtVx (x : RegIx) : EncodedInRow.Statement (.ldDtVx x) :=
  EncodedInRow.of_row ⟨"FX15", 0xF015, 0xF0FF⟩ rfl (formatXK_maskTKK _ _ _)

theorem EncodedInRow.ldStVx (x : RegIx) : EncodedInRow.Statement (.ldStVx x) :=
  EncodedInRow.of_row ⟨"FX18", 0xF018, 0xF0FF⟩ rfl (formatXK_maskTKK _ _ _)

theorem EncodedInRow.addI (x : RegIx) : EncodedInRow.Statement (.addI x) :=
  EncodedInRow.of_row ⟨"FX1E", 0xF01E, 0xF0FF⟩ rfl (formatXK_maskTKK _ _ _)

theorem EncodedInRow.ldFont (x : RegIx) : EncodedInRow.Statement (.ldFont x) :=
  EncodedInRow.of_row ⟨"FX29", 0xF029, 0xF0FF⟩ rfl (formatXK_maskTKK _ _ _)

theorem EncodedInRow.storeBcd (x : RegIx) : EncodedInRow.Statement (.storeBcd x) :=
  EncodedInRow.of_row ⟨"FX33", 0xF033, 0xF0FF⟩ rfl (formatXK_maskTKK _ _ _)

theorem EncodedInRow.storeRegs (x : RegIx) : EncodedInRow.Statement (.storeRegs x) :=
  EncodedInRow.of_row ⟨"FX55", 0xF055, 0xF0FF⟩ rfl (formatXK_maskTKK _ _ _)

theorem EncodedInRow.loadRegs (x : RegIx) : EncodedInRow.Statement (.loadRegs x) :=
  EncodedInRow.of_row ⟨"FX65", 0xF065, 0xF0FF⟩ rfl (formatXK_maskTKK _ _ _)

theorem EncodedInRow.nop (w : Word) : EncodedInRow.Statement (.nop w) := by
  intro r hr hn
  have : ∀ r ∈ opcodeRows, r.name ≠ "NOP" := by decide
  exact absurd hn (this r hr)

end Sys2Proof.Laws
end

