-- ==== Sys2Proof/Tests/Slice0.lean ====
section
/-! SUPPORT. The model's own tests. Expected values are those of spec/95_test_vectors.md (the vector's id stands beside each) or are
written out from the encodings of spec/30_encoding.md; the last section meets the hypotheses of the statements. -/

namespace Sys2Proof.Tests

open Sys2Proof Sys2Proof.Machine

/-! ## WellFormed -/

/-- The one check: a NOP may not carry a word that some row of the table selects. -/
theorem test_wellFormed_refuses_mapped_nop :
    (Instr.nop 0x600A).wellFormed = false ∧ (Instr.nop 0x00E0).wellFormed = false ∧ (Instr.nop 0xF265).wellFormed = false := by decide

theorem test_wellFormed_accepts :
    (Instr.nop 0x0000).wellFormed = true ∧ (Instr.nop 0x8ABF).wellFormed = true ∧ (Instr.cls 0x5).wellFormed = true := by decide

/-! ## Decode: a word of every row, its bits written out field by field (T, X, Y, N; T, X, KK; T, NNN) -/

theorem test_decode_family_0 :
    decode 0b0000_0101_1110_0000 = .cls 0x5 ∧ decode 0b0000_0000_1110_1110 = .ret 0x0 ∧
    decode 0b0000_0001_0010_0011 = .nop 0x0123 ∧ decode 0b0000_0000_1110_0001 = .nop 0x00E1 := by decide

theorem test_decode_families_1_to_7 :
    decode 0b0001_0010_0011_0100 = .jp 0x234 ∧ decode 0b0010_1010_1011_1100 = .call 0xABC ∧
    decode 0b0011_0001_0000_0000 = .seImm 1 0x00 ∧ decode 0b0100_1110_1111_0001 = .sneImm 0xE 0xF1 ∧
    decode 0b0101_0010_0011_0111 = .seReg 2 3 7 ∧ decode 0b0110_0000_0000_1010 = .ldImm 0 0x0A ∧
    decode 0b0111_1111_0000_0011 = .addImm 0xF 0x03 := by decide

theorem test_decode_family_8 :
    decode 0b1000_1010_0011_0000 = .ldReg 0xA 3 ∧ decode 0b1000_0001_0010_0001 = .orReg 1 2 ∧
    decode 0b1000_0001_0010_0010 = .andReg 1 2 ∧ decode 0b1000_0001_0010_0011 = .xorReg 1 2 ∧
    decode 0b1000_1111_1110_0100 = .addReg 0xF 0xE ∧ decode 0b1000_0010_0011_0101 = .subReg 2 3 ∧
    decode 0b1000_0100_0101_0110 = .shrReg 4 5 ∧ decode 0b1000_0010_0011_0111 = .subnReg 2 3 ∧
    decode 0b1000_0100_0101_1110 = .shlReg 4 5 ∧ decode 0b1000_1010_1011_1111 = .nop 0x8ABF := by decide

theorem test_decode_families_9_to_D :
    decode 0b1001_0010_0011_1111 = .sneReg 2 3 0xF ∧ decode 0b1010_0011_0000_0000 = .ldI 0x300 ∧
    decode 0b1011_0010_0000_0000 = .jpV0 0x200 ∧ decode 0b1100_0111_0000_1111 = .rnd 7 0x0F ∧
    decode 0b1101_0000_0001_0010 = .drw 0 1 2 := by decide

theorem test_decode_families_E_F :
    decode 0b1110_0011_1001_1110 = .skp 3 ∧ decode 0b1110_0011_1010_0001 = .sknp 3 ∧
    decode 0b1111_0101_0000_0111 = .ldVxDt 5 ∧ decode 0b1111_0011_0000_1010 = .ldVxKey 3 ∧
    decode 0b1111_0101_0001_0101 = .ldDtVx 5 ∧ decode 0b1111_0101_0001_1000 = .ldStVx 5 ∧
    decode 0b1111_0010_0001_1110 = .addI 2 ∧ decode 0b1111_0000_0010_1001 = .ldFont 0 ∧
    decode 0b1111_0001_0011_0011 = .storeBcd 1 ∧ decode 0b1111_0010_0101_0101 = .storeRegs 2 ∧
    decode 0b1111_0010_0110_0101 = .loadRegs 2 ∧ decode 0b1110_0001_1001_1111 = .nop 0xE19F ∧
    decode 0b1111_0000_0111_0101 = .nop 0xF075 := by decide

/-- Bits as the table numbers them, and a byte list too short for an instruction. -/
theorem test_decodeTableWord :
    decodeTableWord 16 0x8FE4 = some (.addReg 0xF 0xE) ∧ decodeTableWord 8 0xABE0 = some (.cls 0) ∧
    decodeBytes [0x60] = .error .truncated := by decide

/-! ## One step of each instruction -/

/-- The next state of an outcome. -/
def after (o : Host.Outcome State Fault Refusal) : State :=
  match o with
  | .next t => t
  | .fault _ => State.reset
  | .refused _ => State.reset

/-- The state after one STEP of a word placed at PC. -/
def stepWord (s : State) (w : Word) : State := after (step (s.placeWord s.pc.toNat w))

/-- The result of that STEP. -/
def resultWord (s : State) (w : Word) : Option StepResult := coreResult (s.placeWord s.pc.toNat w)

/-- The reset state with V[0], V[1], .. given. -/
def withRegs (l : List Byte) : State := (l.zipIdx).foldl (fun s e => s.setReg (Fin.ofNat 16 e.2) e.1) State.reset

/-- The reset state with a register, V[0xF] and I given. -/
def withI (r : RegIx) (b f : Byte) (i : Word) : State := ((State.reset.setReg r b).setReg 0xF f).setI i

/-- STEP-1, STEP-2: unmapped words. -/
theorem test_nop : (stepWord State.reset 0x0000).pc = 0x0202 ∧ (stepWord (State.reset.setPc 0x0300) 0x8ABF).pc = 0x0302 ∧
    resultWord State.reset 0x0123 = some .ok := by decide

/-- STEP-8, STEP-9: big-endian fetch, odd PC. -/
theorem test_fetch : (stepWord State.reset 0x1234).pc = 0x0234 ∧ (stepWord (State.reset.setPc 0x0201) 0x6077).reg 0 = 0x77 ∧
    (stepWord (State.reset.setPc 0x0201) 0x6077).pc = 0x0203 := by decide

/-- STEP-12, STEP-14: PC past the last fetchable address. -/
theorem test_halt : (after (step (State.reset.setPc 0x0FFF))).status = .haltedPc ∧ (after (step (State.reset.setPc 0x0FFF))).pc = 0x0FFF ∧
    coreResult (State.reset.setPc 0x10FE) = some .halted := by decide

/-- STEP-16: a stopped machine repeats its result. -/
theorem test_sticky : (stepWord (State.reset.raise .memFault) 0x6011).pc = 0x0200 ∧
    resultWord (State.reset.raise .memFault) 0x6011 = some (.fault .mem) := by decide

/-- The placed word runs as the next step, also from a stopped state past the end of memory. -/
theorem test_withFetchWord :
    (after (step (State.reset.withFetchWord 16 0x6A77))).reg 0xA = 0x77 ∧
    (after (step (((State.reset.setPc 0x10FE).raise .haltPc).withFetchWord 16 0x6A77))).reg 0xA = 0x77 := by decide

/-- ALU-2, ALU-3, ALU-5. -/
theorem test_immediates : (stepWord State.reset 0x6F7B).reg 0xF = 0x7B ∧ (stepWord (withI 1 0xFF 0x55 0) 0x7101).reg 1 = 0x00 ∧
    (stepWord (withI 1 0xFF 0x55 0) 0x7101).reg 0xF = 0x55 ∧ (stepWord (withI 1 0 0xFE 0) 0x7F03).reg 0xF = 0x01 := by decide

/-- ALU-6 to ALU-9. -/
theorem test_logic : (stepWord (withRegs [0, 0, 0, 0x7C]) 0x8A30).reg 0xA = 0x7C ∧
    (stepWord (withRegs [0, 0xF0, 0x3C]) 0x8121).reg 1 = 0xFC ∧ (stepWord (withRegs [0, 0xF0, 0x3C]) 0x8122).reg 1 = 0x30 ∧
    (stepWord (withRegs [0, 0xF0, 0x3C]) 0x8123).reg 1 = 0xCC := by decide

/-- ALU-12, ALU-13, ALU-15 (S2), ALU-17. -/
theorem test_add : (stepWord (withRegs [0xFF, 0x01]) 0x8014).reg 0 = 0x00 ∧ (stepWord (withRegs [0xFF, 0x01]) 0x8014).reg 0xF = 1 ∧
    (stepWord (withRegs [0xFF, 0x00]) 0x8014).reg 0xF = 0 ∧ (stepWord (withI 0xE 0x01 0xFF 0) 0x8FE4).reg 0xF = 1 ∧
    (stepWord (withI 1 0x10 0xF8 0) 0x81F4).reg 1 = 0x08 := by decide

/-- ALU-19, ALU-21, ALU-24, ALU-25. -/
theorem test_sub : (stepWord (withRegs [0, 0, 0x10, 0x20]) 0x8235).reg 2 = 0xF0 ∧
    (stepWord (withRegs [0, 0, 0x10, 0x20]) 0x8235).reg 0xF = 0 ∧ (stepWord (withRegs [0, 0, 0x33, 0x33]) 0x8235).reg 0xF = 1 ∧
    (stepWord (withI 1 0x05 0x03 0) 0x8F15).reg 0xF = 0 ∧ (stepWord (withI 1 0x05 0x07 0) 0x81F5).reg 1 = 0xFE := by decide

/-- ALU-27, ALU-28, ALU-29. -/
theorem test_subn : (stepWord (withRegs [0, 0, 0x20, 0x10]) 0x8237).reg 2 = 0xF0 ∧
    (stepWord (withRegs [0, 0, 0x20, 0x10]) 0x8237).reg 0xF = 0 ∧ (stepWord (withRegs [0, 0, 0x33, 0x33]) 0x8237).reg 0xF = 1 ∧
    (stepWord (withI 1 0x03 0x05 0) 0x8F17).reg 0xF = 0 := by decide

/-- ALU-30, ALU-31, ALU-34: both dialects, and the flag register as destination. -/
theorem test_shr : (stepWord (withRegs [0, 0, 0, 0, 0x05, 0x08]) 0x8456).reg 4 = 0x02 ∧
    (stepWord (withRegs [0, 0, 0, 0, 0x05, 0x08]) 0x8456).reg 0xF = 1 ∧
    (stepWord ((withRegs [0, 0, 0, 0, 0x05, 0x08]).withDialect true) 0x8456).reg 4 = 0x04 ∧
    (stepWord (withI 1 0 0x03 0) 0x8F06).reg 0xF = 1 := by decide

/-- 41_alu.md R130: 0x81 shifted left is 0x02, and 1 is shifted out; the legacy operand is V[Y]. -/
theorem test_shl : (stepWord (withRegs [0, 0, 0, 0, 0x81, 0x08]) 0x845E).reg 4 = 0x02 ∧
    (stepWord (withRegs [0, 0, 0, 0, 0x81, 0x08]) 0x845E).reg 0xF = 1 ∧
    (stepWord ((withRegs [0, 0, 0, 0, 0x81, 0x08]).withDialect true) 0x845E).reg 4 = 0x10 := by decide

/-- 41_alu.md R131: the mask 0x00 leaves no bit of the free value. -/
theorem test_rnd (s : State) (x : RegIx) : (after (exec (.rnd x 0x00) s)).reg x = 0x00 := by
  simp [after, exec, execRnd, State.maskedRnd, State.reg, State.setReg]

/-- CF-2, CF-3. -/
theorem test_ret : (stepWord { State.reset with sp := 2, stack := State.reset.stack.set 1 0x0300 } 0x0AEE).pc = 0x0300 ∧
    (stepWord { State.reset with sp := 2, stack := State.reset.stack.set 1 0x0300 } 0x0AEE).sp = 1 ∧
    (stepWord State.reset 0x00EE).status = .faultStackUnderflow ∧ (stepWord State.reset 0x00EE).pc = 0x0202 := by decide

/-- CF-10, CF-11. -/
theorem test_call : (stepWord { State.reset with pc := 0x0300, sp := 15 } 0x2ABC).pc = 0x0ABC ∧
    (stepWord { State.reset with pc := 0x0300, sp := 15 } 0x2ABC).stack[15] = 0x0302 ∧
    (stepWord { State.reset with pc := 0x0300, sp := 16 } 0x2ABC).status = .faultStackOverflow ∧
    (stepWord { State.reset with pc := 0x0300, sp := 16 } 0x2ABC).pc = 0x0302 := by decide

/-- CF-12 to CF-15. -/
theorem test_skip_immediate : (stepWord (withRegs [0, 0]) 0x3100).pc = 0x0204 ∧ (stepWord (withRegs [0, 4]) 0x3100).pc = 0x0202 ∧
    (stepWord (withRegs [0, 4]) 0x4100).pc = 0x0204 ∧ (stepWord (withRegs [0, 0]) 0x4100).pc = 0x0202 := by decide

/-- CF-16 to CF-18, CF-21, CF-22. -/
theorem test_skip_register : (stepWord (withRegs [0, 0, 0x33, 0x33]) 0x5237).pc = 0x0204 ∧
    (stepWord (withRegs [0, 0, 0x33, 0x34]) 0x5230).pc = 0x0202 ∧ (stepWord (withRegs [0, 0, 0x33, 0x33]) 0x9230).pc = 0x0202 ∧
    (stepWord (withRegs [0, 0, 0x33, 0x34]) 0x923F).pc = 0x0204 := by decide

/-- CF-25, CF-26. -/
theorem test_jpV0 : (stepWord (withRegs [0x02, 0, 0, 0x50]) 0xB300).pc = 0x0302 ∧ (stepWord (withRegs [0xFF]) 0xBFFF).pc = 0x10FE := by
  decide

/-- MT-2, MT-4, MT-5. -/
theorem test_address : (stepWord State.reset 0xAFFF).i = 0x0FFF ∧ (stepWord (withI 2 0x01 0x55 0x0FFF) 0xF21E).i = 0x1000 ∧
    (stepWord (withI 2 0x01 0x55 0xFFFF) 0xF21E).i = 0x0000 ∧ (stepWord (withI 2 0x01 0x55 0xFFFF) 0xF21E).reg 0xF = 0x55 := by decide

/-- MT-9, MT-10, MT-11. -/
theorem test_font : (stepWord (withRegs [0x0F]) 0xF029).i = 0x004B ∧ (stepWord (withRegs [0xFF]) 0xF029).i = 0x04FB ∧
    (stepWord { withRegs [0x0A] with cfg := { defaultConfig with fontBase := 0x050 } } 0xF029).i = 0x0082 := by decide

/-- MT-12, MT-14, MT-15. -/
theorem test_timers : (stepWord (State.reset.setDt 0x3C) 0xF507).reg 5 = 0x3C ∧
    (stepWord (withRegs [0, 0, 0, 0, 0, 0x3C]) 0xF515).dt = 0x3C ∧ (stepWord (withRegs [0, 0, 0, 0, 0, 0x02]) 0xF518).st = 0x02 := by
  decide

/-- MT-20, MT-21, MT-22. -/
theorem test_bcd : (stepWord (withI 0 0x7B 0 0x0FFD) 0xF033).memByte 0xFFE = 0x02 ∧
    (stepWord (withI 0 0x7B 0 0x0FFE) 0xF033).status = .faultMem ∧ (stepWord (withI 0 0x7B 0 0x0FFE) 0xF033).memByte 0xFFE = 0x00 ∧
    (stepWord (withI 1 0x2A 0 0) 0xF133).memByte 0 = 0x00 := by decide

/-- MT-23, MT-27, MT-28. -/
theorem test_storeRegs : (stepWord ((withRegs [0x11, 0x22, 0x33, 0x44]).setI 0x0400) 0xF255).memByte 0x402 = 0x33 ∧
    (stepWord ((withRegs [0x11, 0x22, 0x33, 0x44]).setI 0x0400) 0xF255).memByte 0x403 = 0x00 ∧
    (stepWord (withI 0 0x01 0x0F 0x0FF1) 0xFF55).memByte 0xFF1 = 0x00 ∧
    (stepWord (withI 0 0x11 0 0xFFFF) 0xF155).status = .faultMem := by decide

/-- MT-30, MT-32, MT-33. -/
theorem test_loadRegs : (stepWord State.reset 0xF465).reg 4 = 0xF0 ∧ (stepWord (withI 1 0x99 0 0x0FF1) 0xFF65).reg 1 = 0x99 ∧
    (stepWord ((State.reset.setI 0x0FFF).writeByte 0xFFF 0x5A) 0xF065).reg 0 = 0x5A := by decide

/-- CLS-2. -/
theorem test_cls : (stepWord (State.reset.setCell 7 7 true) 0x05E0).cell 7 7 = false := by decide

/-- The state of DRW-1, with one cell of the sprite on or off. -/
def spriteAt (on : Bool) : State :=
  (((withI 0 0x3E 0x01 0x020C).setReg 1 0x1F).writeByte 0x20C 0xC3 |>.writeByte 0x20D 0x81).setCell 63 31 on

/-- DRW-1: the sprite wraps at both edges. -/
theorem test_drw : (stepWord (spriteAt false) 0xD012).reg 0xF = 0 ∧ (stepWord (spriteAt false) 0xD012).cell 4 31 = true ∧
    (stepWord (spriteAt false) 0xD012).cell 5 0 = true ∧ (stepWord (spriteAt false) 0xD012).cell 0 31 = false := by decide

/-- DRW-6b (a collision), DRW-7 (X = 0xF), DRW-11 (range fault: nothing drawn, V[0xF] kept). -/
theorem test_drw_flag : (stepWord (spriteAt true) 0xD012).reg 0xF = 1 ∧ (stepWord (spriteAt true) 0xD012).cell 63 31 = false ∧
    (stepWord ((withI 1 0x02 0x05 0x0300).writeByte 0x300 0x80) 0xDF11).cell 5 2 = true ∧
    (stepWord (withI 0 0 0x77 0x0FFF) 0xD002).reg 0xF = 0x77 := by decide

/-- KEY-3, KEY-4, KEY-5, KEY-7. -/
theorem test_key_skips : (stepWord ((withRegs [0, 0, 0, 0x05]).hostSetKeys 0xFFDF) 0xE39E).pc = 0x0202 ∧
    (stepWord ((withRegs [0, 0, 0, 0x1A]).hostSetKeys 0x0400) 0xE39E).pc = 0x0204 ∧
    (stepWord (withRegs [0, 0, 0, 0x05]) 0xE3A1).pc = 0x0204 ∧
    (stepWord ((withRegs [0, 0, 0, 0xFF]).hostSetKeys 0x8000) 0xE3A1).pc = 0x0202 := by decide

/-- KEY-8, KEY-9. -/
theorem test_key_wait : (stepWord (withRegs [0x77]) 0xF00A).pc = 0x0200 ∧ resultWord (withRegs [0x77]) 0xF00A = some .needsInput ∧
    (stepWord ((withRegs [0x77]).hostSetKeys 0x0028) 0xF00A).reg 0 = 0x03 ∧
    (stepWord ((withRegs [0x77]).hostSetKeys 0x0028) 0xF00A).pc = 0x0202 := by decide

/-- TICK-2, TICK-3. -/
theorem test_tick : State.hostTick State.reset = State.reset ∧ (State.hostTick { State.reset with dt := 1, st := 0xFF }).dt = 0 ∧
    (State.hostTick { State.reset with dt := 1, st := 0xFF }).st = 0xFE := by decide

/-- RST-2, RST-3. -/
theorem test_reset_memory : State.reset.memByte 0x032 = 0xF0 ∧ State.reset.memByte 0x04F = 0x80 ∧ State.reset.memByte 0x050 = 0x00 ∧
    State.memByte { State.reset with cfg := { defaultConfig with fontBase := 0x050 } } 0x09F = 0x80 ∧
    State.memByte { State.reset with cfg := { defaultConfig with fontBase := 0x050 } } 0x04F = 0x00 := by decide

/-- LOAD-5, LOAD-6. -/
theorem test_load : ((State.reset.raise .haltPc).hostLoad [0x12, 0x00, 0xAB]).memByte 0x202 = 0xAB ∧
    ((State.reset.raise .haltPc).hostLoad [0x12, 0x00, 0xAB]).status = .running ∧
    ((State.reset.setPc 0x1000).hostLoad [0x12, 0x00, 0xAB]).pc = 0x0200 := by decide

/-- LOAD-4. -/
theorem test_load_too_large (s : State) : s.hostLoad (List.replicate 3585 0xAA) = s := by
  have h : loadResult (List.replicate 3585 0xAA) = .loadTooLarge := by
    rw [loadResult, List.length_replicate]; decide
  rw [State.hostLoad, h]

/-- P3 and R183: cell (63, 31) has index 2047, cell (62, 0) index 62. -/
theorem test_framebuffer (s : State) : s.framebuffer[2047] = s.cell 63 31 ∧ s.framebuffer[62] = s.cell 62 0 := by
  constructor <;> simp [State.framebuffer]

/-- 10_state.md R24. -/
theorem test_statusCode : statusCode .running = 0 ∧ statusCode .haltedPc = 1 ∧ statusCode .faultMem = 2 ∧
    statusCode .faultStackOverflow = 3 ∧ statusCode .faultStackUnderflow = 4 := by decide

/-! ## The hypotheses of the statements are met: a concrete state for each, and for each of its clauses, at a boundary value -/

/-- The reset state with a word placed at PC. -/
def holding (w : Word) : State := State.reset.placeWord 0x200 w

theorem witness_AddRegistersWritesCarryLast : (0 : RegIx) ≠ 0xF ∧
    ¬ ((0xFF : Byte).toNat + (0x00 : Byte).toNat > 255) ∧ (0xFF : Byte).toNat + (0x01 : Byte).toNat > 255 := by decide

theorem witness_SubtractionsWriteNotBorrowLast : (0 : RegIx) ≠ 0xF ∧ (0x33 : Byte).toNat ≥ (0x33 : Byte).toNat ∧
    ¬ ((0x00 : Byte).toNat ≥ (0x01 : Byte).toNat) := by decide

theorem witness_ShiftsFollowTheDialect :
    (0x05 : Byte) = (if (withI 0 0x05 0 0).cfg.shiftUsesVY = true then (withI 0 0x05 0 0).reg 1 else (withI 0 0x05 0 0).reg 0) ∧
    (0x00 : Byte) = (if ((withI 0 0x05 0 0).withDialect true).cfg.shiftUsesVY = true
      then ((withI 0 0x05 0 0).withDialect true).reg 1 else ((withI 0 0x05 0 0).withDialect true).reg 0) ∧ (0 : RegIx) ≠ 0xF := by
  decide

theorem witness_ShiftDialectsAgreeOnEqualOperands :
    (Instr.shrReg 0xF 0 = .shrReg 0xF 0 ∨ Instr.shrReg 0xF 0 = .shlReg 0xF 0) ∧ (withI 0 0x81 0x81 0).reg 0 = (withI 0 0x81 0x81 0).reg 0xF ∧
    (0 : RegIx) ≠ 0xF := by decide

theorem witness_RandomByteIsMaskedAndDrawnOnce : (0x7F : Byte).getLsbD (7 : Fin 8) = false := by decide

theorem witness_CallPushesAdvancedPc : ({ State.reset with sp := 15 } : State).sp.val < 16 := by decide

theorem witness_ReturnPopsIntoPc : ({ State.reset with sp := 16 } : State).sp.val = (15 : Fin 16).val + 1 ∧
    ({ State.reset with sp := 1 } : State).sp.val = (0 : Fin 16).val + 1 := by decide

theorem witness_StackBoundsFault : ({ State.reset with sp := 16 } : State).sp.val = 16 ∧ State.reset.sp.val = 0 := by decide

/-- A call at 0x200 of a return at 0x210. -/
def callAndReturn : State := (holding 0x2210).placeWord 0x210 0x00EE

theorem witness_CallThenReturnResumes : callAndReturn.sp.val < 16 ∧ Fetches callAndReturn ∧
    decode callAndReturn.fetchWord = .call 0x210 ∧ (0x210 : Addr12).toNat ≤ 0x0FFE ∧
    decode (wordOfBytes (callAndReturn.memByte (0x210 : Addr12).toNat) (callAndReturn.memByte ((0x210 : Addr12).toNat + 1))) = .ret 0 :=
  ⟨by decide, ⟨by decide, by decide, by decide⟩, by decide, by decide, by decide⟩

theorem witness_FontAddressPointsAtGlyph : (withRegs [0x0F]).mem = [] ∧ ((withRegs [0x0F]).reg 0).toNat < 16 := by decide

theorem witness_BcdStoresDecimalDigits : (withI 0 0x7B 0 0x0FFD).i.toNat + 2 ≤ 4095 ∧ 4095 < (withI 0 0x7B 0 0x0FFE).i.toNat + 2 := by
  decide

theorem witness_BlockTransfers : (withI 0 0 0 0x0FF0).i.toNat + (15 : RegIx).val ≤ 4095 ∧ (15 : RegIx) ≤ 15 ∧ (0 : RegIx) ≤ 15 := by
  decide

theorem witness_RangeFaultsArePrecise : 1 ≤ (0xF : Nibble).toNat ∧ 4095 < (withI 0 0 0 0x0FF2).i.toNat + ((0xF : Nibble).toNat - 1) ∧
    4095 < (withI 0 0 0 0x0FFE).i.toNat + 2 ∧ 4095 < (withI 0 0 0 0x0FF1).i.toNat + (15 : RegIx).val := by decide

theorem witness_BlockLoadAfterStoreRestores :
    (withI 0 0x11 0 0x0FF0).i.toNat + (15 : RegIx).val ≤ 4095 ∧
    ((after (exec (.storeRegs 15) (withI 0 0x11 0 0x0FF0))).setReg 0 0x99).i = (after (exec (.storeRegs 15) (withI 0 0x11 0 0x0FF0))).i ∧
    (∀ a, ((after (exec (.storeRegs 15) (withI 0 0x11 0 0x0FF0))).setReg 0 0x99).memByte a =
      (after (exec (.storeRegs 15) (withI 0 0x11 0 0x0FF0))).memByte a) :=
  ⟨by decide, State.setReg_i _ _ _, State.memByte_setReg _ _ _⟩

theorem witness_DrawTogglesTheSprite :
    (0 : Nibble) = 0 ∧ (withI 0 0 0 0x0FF1).i.toNat + ((0xF : Nibble).toNat - 1) ≤ 4095 ∧
    62 = ((spriteAt true).reg 0).toNat % 64 ∧ 31 = ((spriteAt true).reg 1).toNat % 32 ∧
    (SpriteHits (spriteAt true) 62 31 2 63 31 ∧ (spriteAt true).cell 63 31 = true) ∧ (spriteAt false).cell 63 31 = false :=
  ⟨by decide, by decide, by decide, by decide, ⟨⟨0, by decide, 1, by decide, by decide, by decide, by decide⟩, by decide⟩, by decide⟩

theorem witness_DrawTwiceRestoresDisplay : (0 : RegIx) ≠ 0xF ∧ (1 : RegIx) ≠ 0xF ∧
    ((2 : Nibble) = 0 ∨ (spriteAt true).i.toNat + ((2 : Nibble).toNat - 1) ≤ 4095) := by decide

theorem witness_KeyWaitTakesLowestKey : (State.reset.hostSetKeys 0x8000).keys ≠ 0 := by decide

theorem witness_KeyWaitWithoutKeyChangesNothing :
    Fetches (holding 0xF30A) ∧ decode (holding 0xF30A).fetchWord = .ldVxKey 3 ∧ (holding 0xF30A).keys = 0 :=
  ⟨⟨by decide, by decide, by decide⟩, by decide, by decide⟩

theorem witness_UnmappedWordsDoNothing : Fetches (State.reset.setPc 0x0FFE) ∧ unmapped (State.reset.setPc 0x0FFE).fetchWord = true :=
  ⟨⟨by decide, by decide, by decide⟩, by decide⟩

theorem witness_StepRunsDecodedInstruction : Fetches ((holding 0xF30A).setPc 0x0FFE) ∧
    ({ holding 0x600A with schedule := [.step, .tick] } : State).schedule = .step :: [.tick] ∧
    ({ holding 0x600A with schedule := [.step, .tick] } : State).status = .running ∧
    ({ holding 0x600A with schedule := [.step, .tick] } : State).pc.toNat ≤ 0x0FFE :=
  ⟨⟨by decide, by decide, by decide⟩, by decide, by decide, by decide⟩

theorem witness_PcPastMemoryHalts : (State.reset.setPc 0x0FFF).schedule = [] ∧ (State.reset.setPc 0x0FFF).status = .running ∧
    0x0FFE < (State.reset.setPc 0x0FFF).pc.toNat := by decide

theorem witness_StoppedMachineIgnoresStep : (State.reset.raise .haltPc).schedule = [] ∧ (State.reset.raise .haltPc).status ≠ .running := by
  decide

/-- A stopped machine whose next operation is RESET, and one whose next is a LOAD. -/
theorem witness_OnlyResetAndLoadLeaveAStop :
    (∃ t, step { State.reset.raise .memFault with schedule := [.reset] } = .next t ∧ t.status ≠ .faultMem) ∧
    (∃ t, step { State.reset.raise .memFault with schedule := [.load [0x12]] } = .next t ∧ t.status ≠ .faultMem) :=
  ⟨⟨_, rfl, by decide⟩, ⟨_, rfl, by decide⟩⟩

theorem witness_TickAndKeyChangesAreLocal :
    ({ State.reset with dt := 1, schedule := [.tick] } : State).schedule = .tick :: [] ∧
    ({ State.reset with schedule := [.setKeys 0x8000] } : State).schedule = .setKeys 0x8000 :: [] := by decide

theorem witness_ManyTicksStopAtZero :
    ({ State.reset with dt := 1, schedule := [.tick, .tick] } : State).schedule = List.replicate 2 .tick ++ [] := by decide

theorem witness_ResetRestoresEveryPart :
    ({ State.reset.raise .memFault with schedule := [.reset, .step] } : State).schedule = .reset :: [.step] := by decide

theorem witness_LoadPlacesImageOrRefuses (image : List Byte) :
    ({ State.reset with schedule := [.load image] } : State).schedule = .load image :: [] ∧
    (List.replicate 3584 (0xAA : Byte)).length ≤ 3584 ∧ 3584 < (List.replicate 3585 (0xAA : Byte)).length := by
  rw [List.length_replicate, List.length_replicate]; exact ⟨rfl, by decide, by decide⟩

theorem witness_RegistersChangeOnlyAsNamed :
    (∃ t, exec (.addReg 0 1) (withRegs [0xFF, 0x01]) = .next t ∧ t.reg 0 ≠ (withRegs [0xFF, 0x01]).reg 0 ∧
      t.reg 0xF ≠ (withRegs [0xFF, 0x01]).reg 0xF ∧ t.status = .running) ∧
    WritesFlag (.addReg 0 1) ∧ (withRegs [0xFF, 0x01]).status = .running :=
  ⟨⟨_, rfl, by decide⟩, trivial, rfl⟩

/-- Each part is changed by some instruction. -/
theorem witness_WritersOfEachPart :
    (∃ t, exec (.ldI 1) State.reset = .next t ∧ t.i ≠ State.reset.i) ∧
    (∃ t, exec (.call 0) State.reset = .next t ∧ t.sp ≠ State.reset.sp ∧ t.stack[(0 : Fin 16)] ≠ State.reset.stack[(0 : Fin 16)]) ∧
    (∃ t, exec (.ldDtVx 0) (withRegs [1]) = .next t ∧ t.dt ≠ (withRegs [1]).dt) ∧
    (∃ t, exec (.ldStVx 0) (withRegs [1]) = .next t ∧ t.st ≠ (withRegs [1]).st) ∧
    (∃ t, exec (.cls 0) (State.reset.setCell 63 31 true) = .next t ∧ t.cell 63 31 ≠ (State.reset.setCell 63 31 true).cell 63 31) ∧
    (∃ t, exec (.storeRegs 0) (withI 0 1 0 0x0FFF) = .next t ∧ t.memByte 0xFFF ≠ (withI 0 1 0 0x0FFF).memByte 0xFFF) ∧
    (∃ t, exec (.rnd 0 0) State.reset = .next t ∧ t.rndDraws ≠ State.reset.rndDraws) :=
  ⟨⟨_, rfl, by decide⟩, ⟨_, rfl, by decide⟩, ⟨_, rfl, by decide⟩, ⟨_, rfl, by decide⟩, ⟨_, rfl, by decide⟩, ⟨_, rfl, by decide⟩,
   ⟨_, rfl, by decide⟩⟩

theorem witness_TimersChangeOnlyByTickOrTheirWrites :
    (∃ t, step { State.reset with dt := 1, st := 1, schedule := [.tick] } = .next t ∧ t.dt ≠ 1 ∧ t.st ≠ 1) ∧
    (∃ t, step ((holding 0xF015).setReg 0 0xFF) = .next t ∧ t.dt ≠ ((holding 0xF015).setReg 0 0xFF).dt) ∧
    (∃ t, step ((holding 0xF018).setReg 0 0xFF) = .next t ∧ t.st ≠ ((holding 0xF018).setReg 0 0xFF).st) :=
  ⟨⟨_, rfl, by decide⟩, ⟨_, rfl, by decide⟩, ⟨_, rfl, by decide⟩⟩

theorem witness_SoundTimerIsNeverRead : ∃ t, coreStep (holding 0xF018) = .next t := ⟨_, rfl⟩

theorem witness_KeysAreReadByKeyInstructionsOnly :
    (∀ x, Instr.jp 0 ≠ .skp x ∧ Instr.jp 0 ≠ .sknp x ∧ Instr.jp 0 ≠ .ldVxKey x) ∧ ∃ t, exec (.jp 0) State.reset = .next t :=
  ⟨by decide, ⟨_, rfl⟩⟩

theorem witness_ConfigurationNeverChanges : ∃ t, step { State.reset with schedule := [.load [0x12, 0x00]] } = .next t := ⟨_, rfl⟩

/-- The invariant at its bound: BNNN leads there, and the next step halts. -/
theorem witness_StepKeepsInvariant : Inv (State.reset.setPc 0x10FE) ∧ ∃ t, step (State.reset.setPc 0x10FE) = .next t :=
  ⟨⟨by decide, by decide, by decide⟩, ⟨_, rfl⟩⟩

theorem witness_DecodeOfEncode : (Instr.nop 0xFFFF).wellFormed = true ∧ (Instr.drw 0xF 0xF 0xF).wellFormed = true := by decide

theorem witness_ParkedMachineStaysParked : Parked (holding 0x1200) ∧ (holding 0x1200).schedule = [] :=
  ⟨⟨by decide, by decide, 0x200, by decide, by decide⟩, by decide⟩

theorem witness_ZeroedMemorySlidesToHalt : (State.reset.setPc 0x0FFE).schedule = [] ∧ (State.reset.setPc 0x0FFE).status = .running ∧
    (State.reset.setPc 0x0FFE).pc.toNat + 2 * 1 = 0x1000 ∧
    (∀ a, (State.reset.setPc 0x0FFE).pc.toNat ≤ a → a ≤ 0x0FFF → (State.reset.setPc 0x0FFE).memByte a = 0) := by
  refine ⟨by decide, by decide, by decide, fun a h h' => ?_⟩
  have hlo : 0x0FFE ≤ a := h
  have : a = 0x0FFE ∨ a = 0x0FFF := by omega
  rcases this with rfl | rfl <;> decide

theorem witness_ViewsShowDisplayAndMemory : 4095 < 4096 ∧ (63 : Fin 64).val < 64 ∧ (31 : Fin 32).val < 32 := by decide

end Sys2Proof.Tests
end

/-! SUPPORT. Decoder facts: the fields as arithmetic on the word, and the words that decode to the no-op (30_encoding.md R71, R77). -/

namespace Sys2Proof

theorem fieldT_toNat (w : Word) : (fieldT w).toNat = w.toNat / 4096 := by
  rw [fieldT, BitVec.extractLsb'_toNat, Nat.shiftRight_eq_div_pow]
  omega

theorem fieldKK_toNat (w : Word) : (fieldKK w).toNat = w.toNat % 256 := by
  rw [fieldKK, BitVec.extractLsb'_toNat, Nat.shiftRight_zero]

theorem fieldN_toNat (w : Word) : (fieldN w).toNat = w.toNat % 16 := by
  rw [fieldN, BitVec.extractLsb'_toNat, Nat.shiftRight_zero]

theorem decodeFamily0_eq_nop_iff (w : Word) : decodeFamily0 w = .nop w ↔ (fieldKK w).toNat ∉ [0xE0, 0xEE] := by
  unfold decodeFamily0
  split <;> simp_all

theorem decodeFamily8_eq_nop_iff (w : Word) :
    decodeFamily8 w = .nop w ↔ (fieldN w).toNat ∈ [0x8, 0x9, 0xA, 0xB, 0xC, 0xD, 0xF] := by
  have hN := (fieldN w).isLt
  unfold decodeFamily8
  split <;> simp_all
  omega

theorem decodeFamilyE_eq_nop_iff (w : Word) : decodeFamilyE w = .nop w ↔ (fieldKK w).toNat ∉ [0x9E, 0xA1] := by
  unfold decodeFamilyE
  split <;> simp_all

theorem decodeFamilyF_eq_nop_iff (w : Word) :
    decodeFamilyF w = .nop w ↔ (fieldKK w).toNat ∉ [0x07, 0x0A, 0x15, 0x18, 0x1E, 0x29, 0x33, 0x55, 0x65] := by
  unfold decodeFamilyF
  split <;> simp_all

/-- R77 in the decoder's own terms: the four families that hold unmapped words, and the no-op as each one's selector gives it. -/
theorem unmapped_iff (w : Word) : unmapped w = true ↔
    ((fieldT w).toNat = 0x0 ∧ decodeFamily0 w = .nop w) ∨ ((fieldT w).toNat = 0x8 ∧ decodeFamily8 w = .nop w) ∨
    ((fieldT w).toNat = 0xE ∧ decodeFamilyE w = .nop w) ∨ ((fieldT w).toNat = 0xF ∧ decodeFamilyF w = .nop w) := by
  rw [decodeFamily0_eq_nop_iff, decodeFamily8_eq_nop_iff, decodeFamilyE_eq_nop_iff, decodeFamilyF_eq_nop_iff,
    fieldT_toNat, fieldKK_toNat, fieldN_toNat]
  simp [unmapped, or_assoc]

/-- The decoder answers the no-op exactly on the unmapped words. -/
theorem decode_eq_nop_iff (w : Word) : decode w = .nop w ↔ unmapped w = true := by
  have hT := (fieldT w).isLt
  rw [unmapped_iff]
  unfold decode
  split
  case h_16 =>
    -- the default arm: T is 4 bits, so 0xF is the one value left
    have : (fieldT w).toNat = 0xF := by simp only [imp_false] at *; omega
    simp [this]
  all_goals simp [*]

end Sys2Proof

/-! SUPPORT. One STEP of the core that fetches (40_step_cycle.md R101 to R108), and the unmapped no-op. -/

namespace Sys2Proof.Machine

theorem exec_nop (w : Word) (s : State) : exec (.nop w) s = .next s := rfl

/-- The advance changes PC alone. -/
theorem OnlyChanges.advance (s : State) : OnlyChanges (fun p => p = .pc) s s.advance := by
  intro p hp
  cases p <;> simp_all [Part.Same]

/-- A STEP of the core returns the result R108 gives for where it leads. -/
theorem coreResult_eq {s t : State} (h : coreStep s = .next t) : coreResult s = some (resultFor s t) := by
  rw [coreResult, h]

section
variable {s : State} (hf : Fetches s)
include hf

/-- A STEP that fetches is the execute phase of the decoded word on the advanced state. -/
theorem Fetches.coreStep_eq : coreStep s = exec (decode s.fetchWord) s.advance := by
  simp [coreStep, State.canFetch, hf.running, hf.inRange]

theorem Fetches.step_eq_coreStep : step s = coreStep s := by
  rw [step, nextOperation, hf.noHostOp]

/-- From a fetchable PC the advance does not wrap (R104). -/
theorem Fetches.advance_pc_toNat : s.advance.pc.toNat = s.pc.toNat + 2 := by
  have := hf.inRange
  rw [State.advance_pc]
  bv_omega

/-- A STEP that fetches an unmapped word leaves the advanced state. -/
theorem Fetches.coreStep_of_unmapped (hw : unmapped s.fetchWord = true) : coreStep s = .next s.advance := by
  rw [hf.coreStep_eq, (decode_eq_nop_iff _).mpr hw, exec_nop]

end

/-- An unmapped word awaits no key. -/
theorem State.awaitsInput_of_unmapped {s : State} (hw : unmapped s.fetchWord = true) : s.awaitsInput = false := by
  simp [State.awaitsInput, (decode_eq_nop_iff _).mpr hw, awaitsKey]

/-- Settles O33: an unmapped word decodes to the no-op, so the STEP leads to the advanced state. -/
theorem unmappedWordsDoNothing : Obligations.UnmappedWordsDoNothing := by
  intro s
  refine ⟨fun w => exec_nop w s, fun hf hw => ?_⟩
  have hstep := hf.coreStep_of_unmapped hw
  have hres : resultFor s s.advance = .ok := by
    simp [resultFor, State.awaitsInput_of_unmapped hw, hf.running, resultOfStatus]
  exact ⟨s.advance, by rw [hf.step_eq_coreStep, hstep], hf.advance_pc_toNat, OnlyChanges.advance s,
    by rw [coreResult_eq hstep, hres]⟩

end Sys2Proof.Machine

/-! SUPPORT. The register ALU (41_alu.md): what the two ways of writing a result leave in the registers, and the values over the integers. -/

namespace Sys2Proof.Machine

/-! ## Reading after a result has been written (10_state.md R12) -/

theorem State.reg_setReg_same (s : State) (x : RegIx) (b : Byte) : (s.setReg x b).reg x = b := by
  rw [State.reg_setReg, if_pos rfl]

/-- A destination other than V[0xF] keeps the result: the flag, written last, goes elsewhere. -/
theorem State.reg_setResultFlag_dest (s : State) {x : RegIx} (a f : Byte) (hx : x ≠ 0xF) :
    (s.setResultFlag x a f).reg x = a := by
  rw [State.reg_setResultFlag, if_neg hx, if_pos rfl]

/-- The flag is written last, so it stands in V[0xF] whatever the destination is. -/
theorem State.reg_setResultFlag_flag (s : State) (x : RegIx) (a f : Byte) : (s.setResultFlag x a f).reg 0xF = f := by
  rw [State.reg_setResultFlag, if_pos rfl]

/-- A result with a flag changes the destination and V[0xF] alone. -/
theorem OnlyChanges.setResultFlag (s : State) (x : RegIx) (a f : Byte) :
    OnlyChanges (fun p => p = .reg x ∨ p = .reg regF) s (s.setResultFlag x a f) :=
  (OnlyChanges.setReg s x a (.inl rfl)).trans (.setReg _ regF f (.inr rfl))

/-! ## The values and the flags (41_alu.md R126, R127, R132) -/

/-- Byte subtraction is the difference of the integers modulo 256. -/
theorem byte_sub_toNat (a b : Byte) : ((a - b).toNat : Int) = ((a.toNat : Int) - (b.toNat : Int)) % 256 := by
  have ha := a.isLt
  have hb := b.isLt
  rw [BitVec.toNat_sub]
  omega

theorem carryFlag_eq (a b : Byte) : carryFlag a b = if a.toNat + b.toNat > 255 then 1 else 0 := by
  simp [carryFlag, flagByte]

theorem notBorrowFlag_eq (a b : Byte) : notBorrowFlag a b = if a.toNat ≥ b.toNat then 1 else 0 := by
  simp [notBorrowFlag, flagByte]

/-- A difference written with its not-borrow flag: what 8XY5 and 8XY7 share, whichever operand is subtracted (R127, R129). -/
theorem State.setResultFlag_sub (s : State) (x : RegIx) (a b : Byte) :
    (x ≠ 0xF → (((s.setResultFlag x (a - b) (notBorrowFlag a b)).reg x).toNat : Int) = ((a.toNat : Int) - (b.toNat : Int)) % 256) ∧
    (s.setResultFlag x (a - b) (notBorrowFlag a b)).reg 0xF = (if a.toNat ≥ b.toNat then 1 else 0) ∧
    OnlyChanges (fun p => p = .reg x ∨ p = .reg 0xF) s (s.setResultFlag x (a - b) (notBorrowFlag a b)) := by
  refine ⟨fun hx => ?_, ?_, OnlyChanges.setResultFlag s x _ _⟩
  · rw [State.reg_setResultFlag_dest s _ _ hx, byte_sub_toNat]
  · rw [State.reg_setResultFlag_flag, notBorrowFlag_eq]

/-! ## The instructions -/

theorem exec_ldImm (x : RegIx) (kk : Byte) (s : State) : exec (.ldImm x kk) s = .next (s.setReg x kk) := rfl

theorem exec_ldReg (x y : RegIx) (s : State) : exec (.ldReg x y) s = .next (s.setReg x (s.reg y)) := rfl

theorem exec_addImm (x : RegIx) (kk : Byte) (s : State) : exec (.addImm x kk) s = .next (s.setReg x (s.reg x + kk)) := rfl

theorem exec_addReg (x y : RegIx) (s : State) :
    exec (.addReg x y) s = .next (s.setResultFlag x (s.reg x + s.reg y) (carryFlag (s.reg x) (s.reg y))) := rfl

theorem exec_subReg (x y : RegIx) (s : State) :
    exec (.subReg x y) s = .next (s.setResultFlag x (s.reg x - s.reg y) (notBorrowFlag (s.reg x) (s.reg y))) := rfl

theorem exec_subnReg (x y : RegIx) (s : State) :
    exec (.subnReg x y) s = .next (s.setResultFlag x (s.reg y - s.reg x) (notBorrowFlag (s.reg y) (s.reg x))) := rfl

/-- Settles O4: the sum and the carry are computed from the old operands, and the carry is written last. -/
theorem addRegistersWritesCarryLast : Obligations.AddRegistersWritesCarryLast := by
  intro s x y
  refine ⟨_, exec_addReg x y s, fun hx => ?_, ?_, OnlyChanges.setResultFlag s x _ _⟩
  · rw [State.reg_setResultFlag_dest s _ _ hx, BitVec.toNat_add]
  · rw [State.reg_setResultFlag_flag, carryFlag_eq]

/-- Settles O5: 8XY5 and 8XY7 are one difference with its operands exchanged. -/
theorem subtractionsWriteNotBorrowLast : Obligations.SubtractionsWriteNotBorrowLast := fun s x y =>
  ⟨⟨_, exec_subReg x y s, s.setResultFlag_sub x (s.reg x) (s.reg y)⟩,
   ⟨_, exec_subnReg x y s, s.setResultFlag_sub x (s.reg y) (s.reg x)⟩⟩

/-- Settles O1: each is one register write. -/
theorem registerLoadsWriteOperand : Obligations.RegisterLoadsWriteOperand := fun s x y kk =>
  ⟨⟨_, exec_ldImm x kk s, s.reg_setReg_same x kk, OnlyChanges.setReg s x kk rfl⟩,
   ⟨_, exec_ldReg x y s, s.reg_setReg_same x (s.reg y), OnlyChanges.setReg s x (s.reg y) rfl⟩⟩

/-- Settles O2: one register write of the byte sum, and no flag. -/
theorem addImmediateWrapsWithoutFlag : Obligations.AddImmediateWrapsWithoutFlag := by
  intro s x kk
  refine ⟨_, exec_addImm x kk s, ?_, OnlyChanges.setReg s x _ rfl⟩
  rw [State.reg_setReg_same, BitVec.toNat_add]

end Sys2Proof.Machine

/-! SUPPORT. Writes of the program counter (42_control_flow.md): the frame of a jump and of a conditional skip, and the target of 1NNN. -/

namespace Sys2Proof.Machine

/-- A write of PC changes PC alone; no target is checked (42_control_flow.md R148). -/
theorem OnlyChanges.setPc {w : Part → Prop} (s : State) (target : Word) (hw : w .pc) : OnlyChanges w s (s.setPc target) := by
  intro p hp
  cases p
  case pc => exact absurd hw hp
  all_goals simp [Part.Same]

/-- Taken or not, a conditional skip changes at most PC. -/
theorem OnlyChanges.skipIf {w : Part → Prop} (s : State) (c : Bool) (hw : w .pc) : OnlyChanges w s (s.skipIf c) := by
  rw [State.skipIf_eq]
  exact .setPc s _ hw

@[simp] theorem State.skipIf_pc (s : State) (c : Bool) : (s.skipIf c).pc = if c then s.pc + 2 else s.pc := by
  rw [State.skipIf_eq, State.setPc_pc]

/-- Zero extension keeps the value of a 12-bit address. -/
theorem zextAddr_toNat (nnn : Addr12) : (zextAddr nnn).toNat = nnn.toNat :=
  BitVec.toNat_setWidth_of_le (by decide)

/-! ## The instructions -/

theorem exec_jp (nnn : Addr12) (s : State) : exec (.jp nnn) s = .next (s.setPc (zextAddr nnn)) := rfl

theorem exec_seImm (x : RegIx) (kk : Byte) (s : State) : exec (.seImm x kk) s = .next (s.skipIf (s.reg x == kk)) := rfl

theorem exec_sneImm (x : RegIx) (kk : Byte) (s : State) : exec (.sneImm x kk) s = .next (s.skipIf (s.reg x != kk)) := rfl

/-- Settles O9: one write of PC, with the zero-extended operand. -/
theorem jumpOverwritesPc : Obligations.JumpOverwritesPc := fun s nnn =>
  ⟨_, exec_jp nnn s, zextAddr_toNat nnn, OnlyChanges.setPc s _ rfl⟩

/-- Settles O15: the two skips test one comparison and its negation, so equality decides both. -/
theorem immediateSkipsAreComplements : Obligations.ImmediateSkipsAreComplements := by
  intro s x kk
  refine ⟨_, _, exec_seImm x kk s, exec_sneImm x kk s, ?_, ?_, .skipIf s _ rfl, .skipIf s _ rfl⟩
  all_goals by_cases h : s.reg x = kk <;> simp [h]

end Sys2Proof.Machine

/-! SUPPORT. Moves of the address register and the timers (43_memory_timer.md): each is one write, so its value is what was written and
its frame is the one `exec_frame` gives for the instruction. -/

namespace Sys2Proof.Machine

theorem exec_ldI (nnn : Addr12) (s : State) : exec (.ldI nnn) s = .next (s.setI (zextAddr nnn)) := rfl

theorem exec_ldVxDt (x : RegIx) (s : State) : exec (.ldVxDt x) s = .next (s.setReg x s.dt) := rfl

theorem exec_ldDtVx (x : RegIx) (s : State) : exec (.ldDtVx x) s = .next (s.setDt (s.reg x)) := rfl

theorem exec_ldStVx (x : RegIx) (s : State) : exec (.ldStVx x) s = .next (s.setSt (s.reg x)) := rfl

/-- Settles O17: one write of I, with the zero-extended operand. -/
theorem loadAddressWritesI : Obligations.LoadAddressWritesI := by
  intro s nnn
  refine ⟨_, exec_ldI nnn s, ?_, exec_frame (exec_ldI nnn s)⟩
  rw [State.setI_i, zextAddr_toNat]

/-- Settles O18: one write each, of V[X], of DT and of ST. -/
theorem timerMoves : Obligations.TimerMoves := fun s x =>
  ⟨⟨_, exec_ldVxDt x s, s.reg_setReg_same x s.dt, exec_frame (exec_ldVxDt x s)⟩,
   ⟨_, exec_ldDtVx x s, s.setDt_dt (s.reg x), exec_frame (exec_ldDtVx x s)⟩,
   ⟨_, exec_ldStVx x s, s.setSt_st (s.reg x), exec_frame (exec_ldStVx x s)⟩⟩

end Sys2Proof.Machine

/-! SUPPORT. The display clear (44_display.md R180): what 00E0 leaves is `State.clearDisplay`. -/

namespace Sys2Proof.Machine

theorem exec_cls (ign : Nibble) (s : State) : exec (.cls ign) s = .next s.clearDisplay := rfl

/-- Settles O27: the cleared display reads off at every cell, and the frame of 00E0 is the cells alone. -/
theorem clearTurnsEveryCellOff : Obligations.ClearTurnsEveryCellOff := fun s ign =>
  ⟨_, exec_cls ign s, s.cell_clearDisplay, exec_frame (exec_cls ign s)⟩

end Sys2Proof.Machine

/-! SUPPORT. Decode and encode are inverse (30_encoding.md sections 1 to 4): the words of the formats as numbers, their fields, and a
word put together again from its fields. -/

namespace Sys2Proof

/-! ## The formats as numbers (R72) -/

/-- Bits laid side by side are the number with the right part below the left one. -/
theorem append_toNat {m n : Nat} (a : BitVec m) (b : BitVec n) : (a ++ b).toNat = a.toNat * 2 ^ n + b.toNat := by
  rw [BitVec.toNat_append, ← Nat.shiftLeft_add_eq_or_of_lt b.isLt, Nat.shiftLeft_eq]

theorem formatA_toNat (t : Nibble) (nnn : Addr12) : (formatA t nnn).toNat = t.toNat * 4096 + nnn.toNat := append_toNat t nnn

theorem formatXK_toNat (t x : Nibble) (kk : Byte) :
    (formatXK t x kk).toNat = t.toNat * 4096 + x.toNat * 256 + kk.toNat := by
  have h : (formatXK t x kk).toNat = (t ++ x).toNat * 256 + kk.toNat := append_toNat (t ++ x) kk
  rw [h, append_toNat]
  omega

theorem formatXYN_toNat (t x y n : Nibble) :
    (formatXYN t x y n).toNat = t.toNat * 4096 + x.toNat * 256 + y.toNat * 16 + n.toNat := by
  have h : (formatXYN t x y n).toNat = (t ++ x ++ y).toNat * 16 + n.toNat := append_toNat (t ++ x ++ y) n
  have h' : (t ++ x ++ y).toNat = (t ++ x).toNat * 16 + y.toNat := append_toNat (t ++ x) y
  rw [h, h', append_toNat]
  omega

/-! ## The remaining fields as numbers (R71) -/

theorem nibbleX_toNat (w : Word) : (nibbleX w).toNat = w.toNat / 256 % 16 := by
  rw [nibbleX, BitVec.extractLsb'_toNat, Nat.shiftRight_eq_div_pow]

theorem nibbleY_toNat (w : Word) : (nibbleY w).toNat = w.toNat / 16 % 16 := by
  rw [nibbleY, BitVec.extractLsb'_toNat, Nat.shiftRight_eq_div_pow]

theorem fieldNNN_toNat (w : Word) : (fieldNNN w).toNat = w.toNat % 4096 := by
  rw [fieldNNN, BitVec.extractLsb'_toNat, Nat.shiftRight_zero]

/-! ## The fields of a format are what it was made of -/

@[simp] theorem fieldT_formatA (t : Nibble) (nnn : Addr12) : fieldT (formatA t nnn) = t := by
  apply BitVec.eq_of_toNat_eq
  rw [fieldT_toNat, formatA_toNat]
  omega

@[simp] theorem fieldNNN_formatA (t : Nibble) (nnn : Addr12) : fieldNNN (formatA t nnn) = nnn := by
  apply BitVec.eq_of_toNat_eq
  rw [fieldNNN_toNat, formatA_toNat]
  omega

@[simp] theorem fieldT_formatXK (t x : Nibble) (kk : Byte) : fieldT (formatXK t x kk) = t := by
  apply BitVec.eq_of_toNat_eq
  rw [fieldT_toNat, formatXK_toNat]
  omega

@[simp] theorem nibbleX_formatXK (t x : Nibble) (kk : Byte) : nibbleX (formatXK t x kk) = x := by
  apply BitVec.eq_of_toNat_eq
  rw [nibbleX_toNat, formatXK_toNat]
  omega

@[simp] theorem fieldKK_formatXK (t x : Nibble) (kk : Byte) : fieldKK (formatXK t x kk) = kk := by
  apply BitVec.eq_of_toNat_eq
  rw [fieldKK_toNat, formatXK_toNat]
  omega

@[simp] theorem fieldT_formatXYN (t x y n : Nibble) : fieldT (formatXYN t x y n) = t := by
  apply BitVec.eq_of_toNat_eq
  rw [fieldT_toNat, formatXYN_toNat]
  omega

@[simp] theorem nibbleX_formatXYN (t x y n : Nibble) : nibbleX (formatXYN t x y n) = x := by
  apply BitVec.eq_of_toNat_eq
  rw [nibbleX_toNat, formatXYN_toNat]
  omega

@[simp] theorem nibbleY_formatXYN (t x y n : Nibble) : nibbleY (formatXYN t x y n) = y := by
  apply BitVec.eq_of_toNat_eq
  rw [nibbleY_toNat, formatXYN_toNat]
  omega

@[simp] theorem fieldN_formatXYN (t x y n : Nibble) : fieldN (formatXYN t x y n) = n := by
  apply BitVec.eq_of_toNat_eq
  rw [fieldN_toNat, formatXYN_toNat]
  omega

@[simp] theorem regOfBits_bitsOfReg (r : RegIx) : regOfBits (bitsOfReg r) = r := rfl

/-- Settles O53: T selects the family and the selector the instruction, and every field of a format is the operand put there; a
well-formed no-op carries an unmapped word. -/
theorem decodeOfEncode : Obligations.DecodeOfEncode := by
  intro i hi
  cases i
  case nop w => exact (decode_eq_nop_iff w).mpr hi
  case cls | ret => simp [encode, decode, decodeFamily0]
  case ldReg | orReg | andReg | xorReg | addReg | subReg | shrReg | subnReg | shlReg =>
    simp [encode, decode, decodeFamily8, fieldX, fieldY]
  case skp | sknp => simp [encode, decode, decodeFamilyE, fieldX]
  case ldVxDt | ldVxKey | ldDtVx | ldStVx | addI | ldFont | storeBcd | storeRegs | loadRegs =>
    simp [encode, decode, decodeFamilyF, fieldX]
  all_goals simp [encode, decode, fieldX, fieldY]

/-! ## A word is put together again from its fields -/

/-- In format `A` the word is its T and its NNN. -/
theorem formatA_of_fields {w : Word} {t : Nibble} (hT : (fieldT w).toNat = t.toNat) : formatA t (fieldNNN w) = w := by
  apply BitVec.eq_of_toNat_eq
  rw [formatA_toNat, ← hT, fieldT_toNat, fieldNNN_toNat]
  omega

/-- In format `XK` the word is its T, its X and its KK. -/
theorem formatXK_of_fields {w : Word} {t : Nibble} {kk : Byte} (hT : (fieldT w).toNat = t.toNat)
    (hK : (fieldKK w).toNat = kk.toNat) : formatXK t (nibbleX w) kk = w := by
  apply BitVec.eq_of_toNat_eq
  rw [formatXK_toNat, ← hT, ← hK, fieldT_toNat, nibbleX_toNat, fieldKK_toNat]
  omega

/-- In format `XYN` the word is its T, its X, its Y and its N. -/
theorem formatXYN_of_fields {w : Word} {t n : Nibble} (hT : (fieldT w).toNat = t.toNat) (hN : (fieldN w).toNat = n.toNat) :
    formatXYN t (nibbleX w) (nibbleY w) n = w := by
  apply BitVec.eq_of_toNat_eq
  rw [formatXYN_toNat, ← hT, ← hN, fieldT_toNat, nibbleX_toNat, nibbleY_toNat, fieldN_toNat]
  omega

theorem encode_decodeFamily0 {w : Word} (hT : (fieldT w).toNat = 0x0) : encode (decodeFamily0 w) = w := by
  unfold decodeFamily0
  split
  case h_3 => rfl
  all_goals exact formatXK_of_fields hT ‹_›

theorem encode_decodeFamily8 {w : Word} (hT : (fieldT w).toNat = 0x8) : encode (decodeFamily8 w) = w := by
  unfold decodeFamily8
  split
  case h_10 => rfl
  all_goals exact formatXYN_of_fields hT ‹_›

theorem encode_decodeFamilyE {w : Word} (hT : (fieldT w).toNat = 0xE) : encode (decodeFamilyE w) = w := by
  unfold decodeFamilyE
  split
  case h_3 => rfl
  all_goals exact formatXK_of_fields hT ‹_›

theorem encode_decodeFamilyF {w : Word} (hT : (fieldT w).toNat = 0xF) : encode (decodeFamilyF w) = w := by
  unfold decodeFamilyF
  split
  case h_10 => rfl
  all_goals exact formatXK_of_fields hT ‹_›

/-- Every word is the word of the instruction it decodes to (R83). -/
theorem encode_decode (w : Word) : encode (decode w) = w := by
  have hT := (fieldT w).isLt
  unfold decode
  split
  case h_1 h => exact encode_decodeFamily0 h
  case h_9 h => exact encode_decodeFamily8 h
  case h_15 h => exact encode_decodeFamilyE h
  case h_16 =>
    -- the default arm: T is 4 bits, so 0xF is the one value left
    refine encode_decodeFamilyF ?_
    simp only [imp_false] at *
    omega
  case h_2 h | h_3 h | h_11 h | h_12 h => exact formatA_of_fields h
  case h_6 h | h_10 h | h_14 h => exact formatXYN_of_fields h rfl
  all_goals exact formatXK_of_fields ‹_› rfl

/-- A word that decodes to a no-op is the one the no-op carries, and so an unmapped one. -/
theorem wellFormed_decode (w : Word) : (decode w).wellFormed = true := by
  cases h : decode w
  case nop v =>
    have hv : v = w := by simpa [h, encode] using encode_decode w
    subst hv
    exact (decode_eq_nop_iff v).mp h
  all_goals rfl

/-- Settles O54: in each arm of the decoder the word is put together again from its fields. -/
theorem encodeOfDecode : Obligations.EncodeOfDecode := fun w => ⟨encode_decode w, wellFormed_decode w⟩

/-! ## The opcode table (R76, R77) -/

/-- The word of every instruction lies in its row. -/
theorem encoded_in_row (i : Instr) : Laws.EncodedInRow.Statement i := by
  cases i
  case cls => exact Laws.EncodedInRow.cls _
  case ret => exact Laws.EncodedInRow.ret _
  case jp => exact Laws.EncodedInRow.jp _
  case call => exact Laws.EncodedInRow.call _
  case seImm => exact Laws.EncodedInRow.seImm _ _
  case sneImm => exact Laws.EncodedInRow.sneImm _ _
  case seReg => exact Laws.EncodedInRow.seReg _ _ _
  case ldImm => exact Laws.EncodedInRow.ldImm _ _
  case addImm => exact Laws.EncodedInRow.addImm _ _
  case ldReg => exact Laws.EncodedInRow.ldReg _ _
  case orReg => exact Laws.EncodedInRow.orReg _ _
  case andReg => exact Laws.EncodedInRow.andReg _ _
  case xorReg => exact Laws.EncodedInRow.xorReg _ _
  case addReg => exact Laws.EncodedInRow.addReg _ _
  case subReg => exact Laws.EncodedInRow.subReg _ _
  case shrReg => exact Laws.EncodedInRow.shrReg _ _
  case subnReg => exact Laws.EncodedInRow.subnReg _ _
  case shlReg => exact Laws.EncodedInRow.shlReg _ _
  case sneReg => exact Laws.EncodedInRow.sneReg _ _ _
  case ldI => exact Laws.EncodedInRow.ldI _
  case jpV0 => exact Laws.EncodedInRow.jpV0 _
  case rnd => exact Laws.EncodedInRow.rnd _ _
  case drw => exact Laws.EncodedInRow.drw _ _ _
  case skp => exact Laws.EncodedInRow.skp _
  case sknp => exact Laws.EncodedInRow.sknp _
  case ldVxDt => exact Laws.EncodedInRow.ldVxDt _
  case ldVxKey => exact Laws.EncodedInRow.ldVxKey _
  case ldDtVx => exact Laws.EncodedInRow.ldDtVx _
  case ldStVx => exact Laws.EncodedInRow.ldStVx _
  case addI => exact Laws.EncodedInRow.addI _
  case ldFont => exact Laws.EncodedInRow.ldFont _
  case storeBcd => exact Laws.EncodedInRow.storeBcd _
  case storeRegs => exact Laws.EncodedInRow.storeRegs _
  case loadRegs => exact Laws.EncodedInRow.loadRegs _
  case nop => exact Laws.EncodedInRow.nop _

/-- The row of a word depends on T, on KK in the families 0x0, 0xE and 0xF, and on N in the family 0x8 (R73, R74). -/
theorem rowOf_decode_congr {w v : Word} (hT : fieldT w = fieldT v)
    (hK : (fieldT v).toNat ∈ [0x0, 0xE, 0xF] → fieldKK w = fieldKK v) (hN : (fieldT v).toNat = 0x8 → fieldN w = fieldN v) :
    rowOf (decode w) = rowOf (decode v) := by
  have hlt := (fieldT v).isLt
  unfold decode
  rw [hT]
  split
  case h_1 h =>
    rw [decodeFamily0, decodeFamily0, hK (by simp [h])]
    split <;> rfl
  case h_9 h =>
    rw [decodeFamily8, decodeFamily8, hN h]
    split <;> rfl
  case h_15 h =>
    rw [decodeFamilyE, decodeFamilyE, hK (by simp [h])]
    split <;> rfl
  case h_16 =>
    have h : (fieldT v).toNat = 0xF := by simp only [imp_false] at *; omega
    rw [decodeFamilyF, decodeFamilyF, hK (by simp [h])]
    split <;> rfl
  all_goals rfl

/-- The pattern of a row decodes to that row, and its mask covers every field that its family tests (R76). -/
theorem opcodeRows_cover : ∀ r ∈ opcodeRows, rowOf (decode r.pattern) = r.name ∧ fieldT r.mask = 0xF ∧
    ((fieldT r.pattern).toNat ∈ [0x0, 0xE, 0xF] → fieldKK r.mask = 0xFF) ∧
    ((fieldT r.pattern).toNat = 0x8 → fieldN r.mask = 0xF) := by decide

/-- A word that selects a row has the row's pattern in every field its family tests, so it decodes to that row. -/
theorem rowOf_decode_of_selects {w : Word} {r : OpcodeRow} (hr : r ∈ opcodeRows) (hs : r.selects w = true) :
    rowOf (decode w) = r.name := by
  obtain ⟨hname, hT, hK, hN⟩ := opcodeRows_cover r hr
  have hp : w &&& r.mask = r.pattern := by simpa [OpcodeRow.selects] using hs
  have fT : fieldT r.pattern = fieldT w &&& fieldT r.mask := by rw [← hp]; exact BitVec.extractLsb'_and
  have fK : fieldKK r.pattern = fieldKK w &&& fieldKK r.mask := by rw [← hp]; exact BitVec.extractLsb'_and
  have fN : fieldN r.pattern = fieldN w &&& fieldN r.mask := by rw [← hp]; exact BitVec.extractLsb'_and
  rw [← hname]
  refine rowOf_decode_congr ?_ (fun h => ?_) (fun h => ?_)
  · rw [fT, hT]; exact (BitVec.and_allOnes).symm
  · rw [fK, hK h]; exact (BitVec.and_allOnes).symm
  · rw [fN, hN h]; exact (BitVec.and_allOnes).symm

theorem selects_iff (w : Word) {r : OpcodeRow} (hr : r ∈ opcodeRows) : r.selects w = true ↔ rowOf (decode w) = r.name := by
  refine ⟨rowOf_decode_of_selects hr, fun h => ?_⟩
  have := encoded_in_row (decode w) r hr h.symm
  rwa [encode_decode] at this

theorem nop_names_no_row (w : Word) : ∀ r ∈ opcodeRows, rowOf (.nop w) ≠ r.name :=
  (by decide : ∀ r ∈ opcodeRows, "NOP" ≠ r.name)

/-- Each name stands in the table once, and that of the no-op not at all. -/
theorem length_rows_named (i : Instr) :
    (opcodeRows.filter (fun r => rowOf i == r.name)).length = if i = .nop (encode i) then 0 else 1 := by
  cases i
  case nop w => simpa [encode] using nop_names_no_row w
  all_goals rfl

/-- Settles O55: a row selects exactly the words that decode to it, and each name has one row. -/
theorem decoderAgreesWithOpcodeTable : Obligations.DecoderAgreesWithOpcodeTable := by
  intro w
  refine ⟨fun r hr => selects_iff w hr, ?_, (decode_eq_nop_iff w).symm⟩
  have hrows : opcodeRows.filter (fun r => r.selects w) = opcodeRows.filter (fun r => rowOf (decode w) == r.name) :=
    List.filter_congr fun r hr => by rw [Bool.eq_iff_iff, selects_iff w hr, beq_iff_eq]
  rw [hrows, length_rows_named, encode_decode]
  simp only [decode_eq_nop_iff]

/-- Settles O56: the decoder evaluated on the eight words. -/
theorem sampleWordsDecode : Obligations.SampleWordsDecode := by
  unfold Obligations.SampleWordsDecode
  decide

end Sys2Proof

/-! SUPPORT. Who writes what (10_state.md section 12): the writers of each part, read off the one frame of every instruction, and the
frame and the outcome of a step of the machine. -/

namespace Sys2Proof.Machine

/-! ## The writers of each part -/

/-- What an instruction has changed it may write. -/
theorem mayWrite_of_changed {i : Instr} {s t : State} (h : exec i s = .next t) (p : Part) (hp : ¬ p.Same s t) : MayWrite i p :=
  not_not.mp fun hw => hp (exec_frame h p hw)

theorem writers_of_i {i : Instr} (h : MayWrite i .i) : (∃ nnn, i = .ldI nnn) ∨ (∃ x, i = .addI x) ∨ ∃ x, i = .ldFont x := by
  cases i <;> simp_all [MayWrite]

theorem writers_of_sp {i : Instr} (h : MayWrite i .sp) : (∃ ign, i = .ret ign) ∨ ∃ nnn, i = .call nnn := by
  cases i <;> simp_all [MayWrite]

theorem writers_of_stackEntry {i : Instr} {k : Fin 16} (h : MayWrite i (.stackEntry k)) : ∃ nnn, i = .call nnn := by
  cases i <;> simp_all [MayWrite]

theorem writers_of_dt {i : Instr} (h : MayWrite i .dt) : ∃ x, i = .ldDtVx x := by
  cases i <;> simp_all [MayWrite]

theorem writers_of_st {i : Instr} (h : MayWrite i .st) : ∃ x, i = .ldStVx x := by
  cases i <;> simp_all [MayWrite]

theorem writers_of_cell {i : Instr} {x : Fin 64} {y : Fin 32} (h : MayWrite i (.cell x y)) :
    (∃ ign, i = .cls ign) ∨ ∃ x y n, i = .drw x y n := by
  cases i <;> simp_all [MayWrite]

theorem writers_of_memByte {i : Instr} {a : Nat} (h : MayWrite i (.memByte a)) : (∃ x, i = .storeBcd x) ∨ ∃ x, i = .storeRegs x := by
  cases i <;> simp_all [MayWrite]

theorem writers_of_rndDraws {i : Instr} (h : MayWrite i .rndDraws) : ∃ x kk, i = .rnd x kk := by
  cases i <;> simp_all [MayWrite]

theorem writers_of_reg {i : Instr} {r : RegIx} (h : MayWrite i (.reg r)) : NamesDestination r i ∨ (WritesFlag i ∧ r = 0xF) := by
  cases i <;> simp_all [MayWrite, NamesDestination, WritesFlag]

/-- No instruction writes the configuration, the key snapshot or the schedule. -/
theorem not_mayWrite_input (i : Instr) : ¬ MayWrite i .cfg ∧ ¬ MayWrite i .keys ∧ ¬ MayWrite i .schedule := by
  cases i <;> simp [MayWrite]

/-- Settles O46: what has changed is in the frame of the instruction, and the frame names the writers. -/
theorem writersOfEachPart : Obligations.WritersOfEachPart := by
  intro i s t h
  have changed := mayWrite_of_changed h
  obtain ⟨hcfg, hkeys, hsched⟩ := not_mayWrite_input i
  refine ⟨fun hc => writers_of_i (changed .i hc), fun hc => writers_of_sp (changed .sp hc), ?_,
    fun hc => writers_of_dt (changed .dt hc), fun hc => writers_of_st (changed .st hc), ?_, ?_,
    fun hc => writers_of_rndDraws (changed .rndDraws hc),
    exec_frame h .cfg hcfg, exec_frame h .keys hkeys, exec_frame h .schedule hsched⟩
  · rintro ⟨k, hc⟩
    exact writers_of_stackEntry (changed (.stackEntry k) hc)
  · rintro ⟨x, y, hc⟩
    exact writers_of_cell (changed (.cell x y) hc)
  · rintro ⟨a, hc⟩
    exact writers_of_memByte (changed (.memByte a) hc)

/-! ## Every instruction and every step answers a next state -/

theorem exec_answers (i : Instr) (s : State) : ∃ t, exec i s = .next t := by
  cases i <;> exact ⟨_, rfl⟩

theorem coreStep_answers (s : State) : ∃ t, coreStep s = .next t := by
  rcases coreStep_cases s with ⟨_, e⟩ | ⟨_, _, e⟩ | ⟨_, _, e⟩ <;> rw [e]
  · exact ⟨_, rfl⟩
  · exact ⟨_, rfl⟩
  · exact exec_answers _ _

/-- Settles O38: STEP answers as the core does, and every other operation of the host is a function of the state. -/
theorem everyStepAnswersNext : Obligations.EveryStepAnswersNext := by
  intro s
  rcases step_cases s with ⟨_, e⟩ | ⟨rest, _, e⟩ | ⟨rest, _, e⟩ | ⟨k, rest, _, e⟩ | ⟨rest, _, e⟩ | ⟨image, rest, _, e⟩ <;> rw [e]
  case inl => exact coreStep_answers _
  case inr.inl => exact coreStep_answers _
  all_goals exact ⟨_, rfl⟩

/-! ## Where a step leads -/

/-- Where a STEP of the core leads (40_step_cycle.md R100). -/
theorem coreStep_inversion {s t : State} (h : coreStep s = .next t) :
    (s.status ≠ .running ∧ t = s) ∨ (s.status = .running ∧ t = s.raise .haltPc) ∨
    (s.status = .running ∧ s.pc.toNat ≤ 0x0FFE ∧ exec (decode s.fetchWord) s.advance = .next t) := by
  rcases coreStep_cases s with ⟨hs, e⟩ | ⟨hs, _, e⟩ | ⟨hs, hf, e⟩ <;> rw [e] at h
  · cases h
    exact .inl ⟨hs, rfl⟩
  · cases h
    exact .inr (.inl ⟨hs, rfl⟩)
  · exact .inr (.inr ⟨hs, of_decide_eq_true hf, h⟩)

/-- Where a step of the machine leads: a STEP, whether the schedule names it or is empty, or the host's operation (20_memory.md R53). -/
theorem step_inversion {s t : State} (h : step s = .next t) :
    (∃ rest, coreStep { s with schedule := rest } = .next t) ∨
    (∃ rest, s.schedule = .tick :: rest ∧ t = State.hostTick { s with schedule := rest }) ∨
    (∃ k rest, s.schedule = .setKeys k :: rest ∧ t = State.hostSetKeys { s with schedule := rest } k) ∨
    (∃ rest, s.schedule = .reset :: rest ∧ t = State.hostReset { s with schedule := rest }) ∨
    (∃ image rest, s.schedule = .load image :: rest ∧ t = State.hostLoad { s with schedule := rest } image) := by
  rcases step_cases s with ⟨_, e⟩ | ⟨rest, _, e⟩ | ⟨rest, hs, e⟩ | ⟨k, rest, hs, e⟩ | ⟨rest, hs, e⟩ | ⟨image, rest, hs, e⟩ <;>
    rw [e] at h
  · exact .inl ⟨s.schedule, h⟩
  · exact .inl ⟨rest, h⟩
  · cases h
    exact .inr (.inl ⟨rest, hs, rfl⟩)
  · cases h
    exact .inr (.inr (.inl ⟨k, rest, hs, rfl⟩))
  · cases h
    exact .inr (.inr (.inr (.inl ⟨rest, hs, rfl⟩)))
  · cases h
    exact .inr (.inr (.inr (.inr ⟨image, rest, hs, rfl⟩)))

/-- The frame of a STEP of the core: PC, STATUS, and what the fetched instruction may write. -/
theorem coreStep_frame {s t : State} (h : coreStep s = .next t) :
    OnlyChanges (fun p => p = .pc ∨ p = .status ∨ MayWrite (decode s.fetchWord) p) s t := by
  rcases coreStep_inversion h with ⟨_, rfl⟩ | ⟨_, rfl⟩ | ⟨_, _, hx⟩
  · exact OnlyChanges.refl _ _
  · exact (OnlyChanges.raise s .haltPc).mono fun p hp => .inr (.inl hp)
  · exact ((OnlyChanges.advance s).mono fun p hp => .inl hp).trans ((exec_frame hx).mono fun p hp => .inr (.inr hp))

/-! ## The host's LOAD (70_reset_and_hazards.md R241) -/

/-- An image that fits is loaded over the reset state; a longer one changes nothing. -/
theorem State.hostLoad_cases (s : State) (image : List Byte) :
    (image.length ≤ 3584 ∧ loadResult image = .loadOk ∧ s.hostLoad image = s.hostReset.writeImage 0x200 image) ∨
    (3584 < image.length ∧ loadResult image = .loadTooLarge ∧ s.hostLoad image = s) := by
  by_cases h : maxImage < image.length
  · have hr : loadResult image = .loadTooLarge := if_pos h
    exact .inr ⟨h, hr, by rw [State.hostLoad, hr]⟩
  · have hr : loadResult image = .loadOk := if_neg h
    exact .inl ⟨Nat.le_of_not_lt h, hr, by rw [State.hostLoad, hr]⟩

/-- Placing an image changes bytes of memory alone. -/
theorem State.writeImage_frame (s : State) (a : Nat) (image : List Byte) :
    OnlyChanges (fun p => ∃ a', p = .memByte a') s (s.writeImage a image) := by
  induction image generalizing s a with
  | nil => exact OnlyChanges.refl _ _
  | cons b bs ih => exact (OnlyChanges.writeByte s a b ⟨a, rfl⟩).trans (ih _ _)

/-! ## The configuration (10_state.md R26) -/

theorem State.hostLoad_cfg (s : State) (image : List Byte) : (s.hostLoad image).cfg = s.cfg := by
  rcases s.hostLoad_cases image with ⟨_, _, e⟩ | ⟨_, _, e⟩ <;> rw [e]
  exact s.hostReset.writeImage_frame 0x200 image .cfg (by simp)

/-- Settles O50: it is in the frame of no instruction, and every operation of the host copies it. -/
theorem configurationNeverChanges : Obligations.ConfigurationNeverChanges := by
  intro s t h
  rcases step_inversion h with ⟨rest, hc⟩ | ⟨rest, _, rfl⟩ | ⟨k, rest, _, rfl⟩ | ⟨rest, _, rfl⟩ | ⟨image, rest, _, rfl⟩
  case inl => exact coreStep_frame hc .cfg (by simp [not_mayWrite_input])
  case inr.inr.inr.inr => exact State.hostLoad_cfg _ _
  all_goals rfl

/-! ## STATUS (60_exceptions.md section 5) -/

/-- After a LOAD of an image that fits the machine is RUNNING; a longer one leaves STATUS as it is. -/
theorem State.hostLoad_status (s : State) (image : List Byte) :
    (image.length ≤ 3584 ∧ (s.hostLoad image).status = .running) ∨ (s.hostLoad image).status = s.status := by
  rcases s.hostLoad_cases image with ⟨hfit, _, e⟩ | ⟨_, _, e⟩ <;> rw [e]
  · exact .inl ⟨hfit, s.hostReset.writeImage_frame 0x200 image .status (by simp)⟩
  · exact .inr rfl

/-- Settles O37: a stopped STEP is the identity, TICK and a change of KEYS do not touch STATUS, and RESET and LOAD make it RUNNING. -/
theorem onlyResetAndLoadLeaveAStop : Obligations.OnlyResetAndLoadLeaveAStop := by
  intro s t hstop h hne
  rcases step_inversion h with ⟨rest, hc⟩ | ⟨rest, _, rfl⟩ | ⟨k, rest, _, rfl⟩ | ⟨rest, hs, rfl⟩ | ⟨image, rest, hs, rfl⟩
  · rcases coreStep_inversion hc with ⟨_, rfl⟩ | ⟨hrun, _⟩ | ⟨hrun, _⟩
    · exact absurd rfl hne
    · exact absurd hrun hstop
    · exact absurd hrun hstop
  · exact absurd rfl hne
  · exact absurd rfl hne
  · exact ⟨rfl, rest, .inl hs⟩
  · rcases State.hostLoad_status { s with schedule := rest } image with ⟨hfit, hrun⟩ | hsame
    · exact ⟨hrun, rest, .inr ⟨image, hfit, hs⟩⟩
    · exact absurd hsame hne

/-! ## The timers (10_state.md section 6) -/

/-- DT is written by FX15 alone, with V[X]. -/
theorem exec_dt {i : Instr} {s t : State} (h : exec i s = .next t) (hne : t.dt ≠ s.dt) :
    ∃ x, i = .ldDtVx x ∧ t.dt = s.reg x := by
  obtain ⟨x, rfl⟩ := writers_of_dt (mayWrite_of_changed h .dt hne)
  rw [exec_ldDtVx] at h
  cases h
  exact ⟨x, rfl, rfl⟩

/-- ST is written by FX18 alone, with V[X]. -/
theorem exec_st {i : Instr} {s t : State} (h : exec i s = .next t) (hne : t.st ≠ s.st) :
    ∃ x, i = .ldStVx x ∧ t.st = s.reg x := by
  obtain ⟨x, rfl⟩ := writers_of_st (mayWrite_of_changed h .st hne)
  rw [exec_ldStVx] at h
  cases h
  exact ⟨x, rfl, rfl⟩

/-- A STEP of the core changes a timer only by its write. -/
theorem coreStep_timers {s t : State} (h : coreStep s = .next t) :
    (t.dt ≠ s.dt → ∃ x, decode s.fetchWord = .ldDtVx x ∧ t.dt = s.reg x) ∧
    (t.st ≠ s.st → ∃ x, decode s.fetchWord = .ldStVx x ∧ t.st = s.reg x) := by
  rcases coreStep_inversion h with ⟨_, rfl⟩ | ⟨_, rfl⟩ | ⟨_, _, hx⟩
  · exact ⟨fun hne => absurd rfl hne, fun hne => absurd rfl hne⟩
  · exact ⟨fun hne => absurd rfl hne, fun hne => absurd rfl hne⟩
  · exact ⟨by simpa using exec_dt hx, by simpa using exec_st hx⟩

/-- Settles O47: a STEP changes a timer by its write alone, a change of KEYS leaves both, and the three other operations are named. -/
theorem timersChangeOnlyByTickOrTheirWrites : Obligations.TimersChangeOnlyByTickOrTheirWrites := by
  intro s t h
  rcases step_inversion h with ⟨rest, hc⟩ | ⟨rest, hs, _⟩ | ⟨k, rest, _, rfl⟩ | ⟨rest, hs, _⟩ | ⟨image, rest, hs, _⟩
  · have hcore := coreStep_timers hc
    exact ⟨fun hne => .inr (hcore.1 hne), fun hne => .inr (hcore.2 hne)⟩
  · exact ⟨fun _ => .inl ⟨rest, .inl hs⟩, fun _ => .inl ⟨rest, .inl hs⟩⟩
  · exact ⟨fun hne => absurd rfl hne, fun hne => absurd rfl hne⟩
  · exact ⟨fun _ => .inl ⟨rest, .inr (.inl hs)⟩, fun _ => .inl ⟨rest, .inr (.inl hs)⟩⟩
  · exact ⟨fun _ => .inl ⟨rest, .inr (.inr ⟨image, hs⟩)⟩, fun _ => .inl ⟨rest, .inr (.inr ⟨image, hs⟩)⟩⟩

end Sys2Proof.Machine

/-! SUPPORT. Subroutines (42_control_flow.md section 2): the call and the return, and the two bounds of the stack. -/

namespace Sys2Proof.Machine

/-! ## The two ends of a call and of a return -/

/-- A call: below 16 entries the advanced PC is pushed and PC is the target, at 16 it is an overflow (R142). -/
theorem exec_call_cases (nnn : Addr12) (s : State) :
    (∃ h : s.sp.val < 16, exec (.call nnn) s = .next
      { s with stack := s.stack.set s.sp.val s.pc h, sp := ⟨s.sp.val + 1, Nat.succ_lt_succ h⟩, pc := zextAddr nnn }) ∨
    (s.sp.val = 16 ∧ exec (.call nnn) s = .next (s.raise .stackOverflow)) := by
  have hx : exec (.call nnn) s = execCall nnn s := rfl
  rcases s.push_cases s.pc with ⟨h, e⟩ | ⟨h, e⟩
  · exact .inl ⟨h, by rw [hx, execCall, e]; rfl⟩
  · exact .inr ⟨h, by rw [hx, execCall, e]⟩

/-- A return: above 0 entries PC is the entry below SP, at 0 it is an underflow (R140). -/
theorem exec_ret_cases (ign : Nibble) (s : State) :
    (∃ k : Fin 16, s.sp.val = k.val + 1 ∧ exec (.ret ign) s = .next { s with sp := k.castSucc, pc := s.stack[k] }) ∨
    (s.sp.val = 0 ∧ exec (.ret ign) s = .next (s.raise .stackUnderflow)) := by
  have hx : exec (.ret ign) s = execRet s := rfl
  rcases s.pop_cases with ⟨h, _, hpos, e⟩ | ⟨h, e⟩
  · exact .inl ⟨⟨s.sp.val - 1, h⟩, (Nat.sub_add_cancel hpos).symm, by rw [hx, execRet, e]; rfl⟩
  · exact .inr ⟨h, by rw [hx, execRet, e]⟩

/-! ## Frames -/

/-- A part that a frame names may be struck from it when it has not changed. -/
theorem OnlyChanges.strengthen {w w' : Part → Prop} {s t : State} (h : OnlyChanges w s t)
    (hw : ∀ p, w p → ¬ w' p → p.Same s t) : OnlyChanges w' s t := by
  intro p hp
  by_cases hwp : w p
  · exact hw p hwp hp
  · exact h p hwp

/-- An instruction that raises an abnormal outcome ends in that fault. -/
theorem endsInFault_of_raise {i : Instr} {s : State} {e : Abnormal} (h : exec i s = .next (s.raise e)) :
    EndsInFault i s (statusOf e) := ⟨_, h, rfl, OnlyChanges.raise s e⟩

/-- Settles O11: the push writes the one entry at the old SP. -/
theorem callPushesAdvancedPc : Obligations.CallPushesAdvancedPc := by
  intro s nnn hlt
  rcases exec_call_cases nnn s with ⟨h, e⟩ | ⟨h, _⟩
  · refine ⟨_, e, by simp, rfl, zextAddr_toNat nnn, (exec_frame e).strengthen ?_⟩
    rintro p (rfl | rfl | rfl | ⟨k, rfl⟩) hp
    · simp at hp
    · simp at hp
    · rfl
    · have hk : s.sp.val ≠ k.val := fun hk => hp (.inr (.inr (congrArg Part.stackEntry (Fin.ext hk.symm))))
      exact Vector.getElem_set_ne h k.isLt hk
  · omega

/-- Settles O12: the pop reads the entry and lowers SP; STATUS is in the frame of 00EE for its fault alone. -/
theorem returnPopsIntoPc : Obligations.ReturnPopsIntoPc := by
  intro s ign k hk
  rcases exec_ret_cases ign s with ⟨j, hj, e⟩ | ⟨h, _⟩
  · obtain rfl : j = k := Fin.ext (by omega)
    refine ⟨_, e, rfl, rfl, (exec_frame e).strengthen ?_⟩
    rintro p (rfl | rfl | rfl) hp
    · simp at hp
    · simp at hp
    · rfl
  · omega

/-- Settles O13: at its bound each instruction raises its abnormal outcome. -/
theorem stackBoundsFault : Obligations.StackBoundsFault := by
  intro s nnn ign
  refine ⟨fun hfull => ?_, fun hempty => ?_⟩
  · rcases exec_call_cases nnn s with ⟨h, _⟩ | ⟨_, e⟩
    · omega
    · exact endsInFault_of_raise e
  · rcases exec_ret_cases ign s with ⟨k, hk, _⟩ | ⟨_, e⟩
    · omega
    · exact endsInFault_of_raise e

/-- A STEP that fetches is the execute phase of the decoded word on the advanced state. -/
theorem Fetches.step_eq {s : State} (hf : Fetches s) : step s = exec (decode s.fetchWord) s.advance := by
  rw [hf.step_eq_coreStep, hf.coreStep_eq]

/-- Settles O14: the return pops the entry that the call has pushed, which is the advanced PC of the call. -/
theorem callThenReturnResumes : Obligations.CallThenReturnResumes := by
  intro s nnn ign hsp hf hcall hnnn hret
  obtain ⟨t, et, tstack, tsp, tpc, tframe⟩ := callPushesAdvancedPc s.advance nnn hsp
  have tmem (a : Nat) : t.memByte a = s.memByte a := tframe (.memByte a) (by simp)
  have hword : t.fetchWord = wordOfBytes (s.memByte nnn.toNat) (s.memByte (nnn.toNat + 1)) := by
    rw [State.fetchWord, tpc, tmem, tmem]
  have hft : Fetches t := ⟨Eq.trans (tframe .schedule (by simp)) hf.noHostOp, Eq.trans (tframe .status (by simp)) hf.running,
    tpc ▸ hnnn⟩
  obtain ⟨u, eu, upc, usp, uframe⟩ := returnPopsIntoPc t.advance ign ⟨s.sp.val, hsp⟩ tsp
  have hu : u.sp = s.sp := Fin.ext usp
  refine ⟨t, u, ?_, ?_, tpc, ?_, hu, ?_⟩
  · rw [hf.step_eq, hcall, et]
  · rw [hft.step_eq, hword, hret, eu]
  · rw [upc, ← hf.advance_pc_toNat]
    exact congrArg BitVec.toNat tstack
  · have hst : OnlyChanges (fun p => p = .pc ∨ p = .sp ∨ p = .stackEntry ⟨s.sp.val, hsp⟩) s t :=
      ((OnlyChanges.advance s).mono fun p hp => .inl hp).trans tframe
    have htu : OnlyChanges (fun p => p = .pc ∨ p = .sp) t u := ((OnlyChanges.advance t).mono fun p hp => .inl hp).trans uframe
    refine (hst.trans (htu.mono fun p hp => hp.imp_right .inl)).strengthen ?_
    rintro p (rfl | rfl | rfl) hp
    · simp at hp
    · exact hu
    · simp at hp

end Sys2Proof.Machine

/-! SUPPORT. The invariant (10_state.md section 13): PC, the entries of STACK and the canonical memory, each through the execute phase,
then through a STEP and the operations of the host. -/

namespace Sys2Proof.Machine

/-! ## PC -/

theorem exec_jpV0 (nnn : Addr12) (s : State) : exec (.jpV0 nnn) s = .next (s.setPc (zextAddr nnn + zextByte (s.reg 0))) := rfl

theorem exec_seReg (x y : RegIx) (n : Nibble) (s : State) : exec (.seReg x y n) s = .next (s.skipIf (s.reg x == s.reg y)) := rfl

theorem exec_sneReg (x y : RegIx) (n : Nibble) (s : State) : exec (.sneReg x y n) s = .next (s.skipIf (s.reg x != s.reg y)) := rfl

theorem exec_skp (x : RegIx) (s : State) : exec (.skp x) s = .next (s.skipIf (s.pressed (s.keyIndex x))) := rfl

theorem exec_sknp (x : RegIx) (s : State) : exec (.sknp x) s = .next (s.skipIf (!s.pressed (s.keyIndex x))) := rfl

/-- FX0A takes the smallest pressed key, or undoes the advance (45_input.md R192). -/
theorem exec_ldVxKey_cases (x : RegIx) (s : State) :
    (∃ k : Fin 16, s.lowestKey = some k ∧ exec (.ldVxKey x) s = .next (s.setReg x (BitVec.ofNat 8 k.val))) ∨
    (s.lowestKey = none ∧ exec (.ldVxKey x) s = .next s.rewind) := by
  have hx : exec (.ldVxKey x) s = execLdVxKey x s := rfl
  cases hk : s.lowestKey with
  | some k => exact .inl ⟨k, rfl, by rw [hx, execLdVxKey, hk]⟩
  | none => exact .inr ⟨rfl, by rw [hx, execLdVxKey, hk]⟩

/-- Zero extension keeps the value of a byte. -/
theorem zextByte_toNat (b : Byte) : (zextByte b).toNat = b.toNat := BitVec.toNat_setWidth_of_le (by decide)

/-- The sum of a 12-bit address and a byte fits in 16 bits. -/
theorem zextAddr_add_zextByte_toNat (nnn : Addr12) (b : Byte) : (zextAddr nnn + zextByte b).toNat = nnn.toNat + b.toNat := by
  have ha := nnn.isLt
  have hb := b.isLt
  rw [BitVec.toNat_add, zextAddr_toNat, zextByte_toNat]
  omega

theorem State.skipIf_pc_le {s : State} (c : Bool) (hpc : s.pc.toNat ≤ 0x1000) : (s.skipIf c).pc.toNat ≤ 0x10FE := by
  rw [State.skipIf_pc]
  split
  · bv_omega
  · omega

theorem State.rewind_pc_le {s : State} (hlo : 2 ≤ s.pc.toNat) (hpc : s.pc.toNat ≤ 0x1000) : s.rewind.pc.toNat ≤ 0x10FE := by
  rw [State.rewind_pc]
  bv_omega

/-- From an advanced PC the execute phase leads to at most 0x10FE, which BNNN reaches (10_state.md R16). -/
theorem exec_pc_le {i : Instr} {s t : State} (h : exec i s = .next t) (hlo : 2 ≤ s.pc.toNat) (hpc : s.pc.toNat ≤ 0x1000)
    (hstack : ∀ k : Fin 16, s.stack[k].toNat ≤ 0x1000) : t.pc.toNat ≤ 0x10FE := by
  have unchanged (hw : ¬ MayWrite i .pc) : t.pc.toNat ≤ 0x10FE := by
    have : t.pc = s.pc := exec_frame h .pc hw
    rw [this]
    omega
  cases i
  case jp nnn =>
    have := nnn.isLt
    rw [exec_jp] at h
    cases h
    rw [State.setPc_pc, zextAddr_toNat]
    omega
  case jpV0 nnn =>
    have := nnn.isLt
    have := (s.reg 0).isLt
    rw [exec_jpV0] at h
    cases h
    rw [State.setPc_pc, zextAddr_add_zextByte_toNat]
    omega
  case call nnn =>
    have := nnn.isLt
    rcases exec_call_cases nnn s with ⟨_, e⟩ | ⟨_, e⟩ <;> rw [e] at h <;> cases h
    · rw [zextAddr_toNat]
      omega
    · rw [State.raise_pc]
      omega
  case ret ign =>
    rcases exec_ret_cases ign s with ⟨k, _, e⟩ | ⟨_, e⟩ <;> rw [e] at h <;> cases h
    · exact (hstack k).trans (by decide)
    · rw [State.raise_pc]
      omega
  case ldVxKey x =>
    rcases exec_ldVxKey_cases x s with ⟨k, _, e⟩ | ⟨_, e⟩ <;> rw [e] at h <;> cases h
    · rw [State.setReg_pc]
      omega
    · exact State.rewind_pc_le hlo hpc
  case seImm | sneImm | seReg | sneReg | skp | sknp =>
    cases h
    exact State.skipIf_pc_le _ hpc
  all_goals exact unchanged (by simp [MayWrite])

/-! ## STACK -/

/-- A call pushes the advanced PC, and no other instruction writes an entry (10_state.md R17). -/
theorem exec_stack_le {i : Instr} {s t : State} (h : exec i s = .next t) (hpc : s.pc.toNat ≤ 0x1000)
    (hstack : ∀ k : Fin 16, s.stack[k].toNat ≤ 0x1000) (k : Fin 16) : t.stack[k].toNat ≤ 0x1000 := by
  by_cases hw : MayWrite i (.stackEntry k)
  · obtain ⟨nnn, rfl⟩ := writers_of_stackEntry hw
    rcases exec_call_cases nnn s with ⟨hlt, e⟩ | ⟨_, e⟩ <;> rw [e] at h <;> cases h
    · have hset : (s.stack.set s.sp.val s.pc hlt)[k] = if s.sp.val = k.val then s.pc else s.stack[k] :=
        Vector.getElem_set hlt k.isLt
      rw [hset]
      split
      · exact hpc
      · exact hstack k
    · exact hstack k
  · have : t.stack[k] = s.stack[k] := exec_frame h (.stackEntry k) hw
    rw [this]
    exact hstack k

/-! ## Memory -/

/-- The memory of the state is in canonical form. -/
def State.Canonical (s : State) : Prop := Memory.wf s.cfg s.mem = true

theorem State.Canonical.writeByte {s : State} (h : s.Canonical) (a : Nat) (b : Byte) : (s.writeByte a b).Canonical :=
  State.wf_writeByte a b h

theorem State.Canonical.checked {s t : State} (c : Nat) (h : s.Canonical) (ht : t.Canonical) : (s.checked c t).Canonical := by
  rcases s.checked_cases c t with ⟨_, e⟩ | ⟨_, e⟩ <;> rw [e]
  · exact ht
  · exact h

/-- A loop whose every round keeps the form keeps it. -/
theorem State.Canonical.foldl {α : Type} {f : State → α → State} {s : State} (h : s.Canonical) (l : List α)
    (hf : ∀ s a, s.Canonical → (f s a).Canonical) : (l.foldl f s).Canonical := by
  induction l generalizing s with
  | nil => exact h
  | cons a l ih => exact ih (hf s a h)

theorem State.Canonical.drawBit {s : State} (h : s.Canonical) (b : Byte) (x0 y0 r c : Nat) : (s.drawBit b x0 y0 r c).Canonical := by
  unfold State.drawBit State.drawPixel
  split
  · split <;> exact h
  · exact h

/-- Memory is written by byte writes alone, which keep the form. -/
theorem exec_canonical {i : Instr} {s t : State} (h : exec i s = .next t) (hs : s.Canonical) : t.Canonical := by
  cases i
  case storeBcd x =>
    cases h
    exact hs.checked 3 (((hs.writeByte _ _).writeByte _ _).writeByte _ _)
  case storeRegs x =>
    cases h
    exact hs.checked _ (hs.foldl _ fun s r hr => hr.writeByte _ _)
  case loadRegs x =>
    cases h
    exact hs.checked _ (hs.foldl _ fun s r hr => hr)
  case drw x y n =>
    cases h
    have hflag : (s.setReg regF 0).Canonical := hs
    exact hs.checked _ (hflag.foldl _ fun s r hr => hr.foldl _ fun s c hc => hc.drawBit _ _ _ _ _)
  case call nnn => rcases exec_call_cases nnn s with ⟨_, e⟩ | ⟨_, e⟩ <;> rw [e] at h <;> cases h <;> exact hs
  case ret ign => rcases exec_ret_cases ign s with ⟨_, _, e⟩ | ⟨_, e⟩ <;> rw [e] at h <;> cases h <;> exact hs
  case ldVxKey x => rcases exec_ldVxKey_cases x s with ⟨_, _, e⟩ | ⟨_, e⟩ <;> rw [e] at h <;> cases h <;> exact hs
  case seImm | sneImm | seReg | sneReg | skp | sknp =>
    cases h
    rw [State.skipIf_eq]
    exact hs
  all_goals
    cases h
    exact hs

/-! ## A step -/

/-- A STEP of the core keeps the invariant. -/
theorem coreStep_keeps_inv {s t : State} (h : coreStep s = .next t) (hs : Inv s) : Inv t := by
  rcases coreStep_inversion h with ⟨_, rfl⟩ | ⟨_, rfl⟩ | ⟨_, hf, hx⟩
  · exact hs
  · exact ⟨hs.pcBound, hs.stackBound, hs.memCanonical⟩
  · have hadv : s.advance.pc.toNat = s.pc.toNat + 2 := by
      rw [State.advance_pc]
      bv_omega
    exact ⟨exec_pc_le hx (by omega) (by omega) hs.stackBound, exec_stack_le hx (by omega) hs.stackBound,
      exec_canonical hx hs.memCanonical⟩

/-- RESET establishes the invariant, whatever the configuration is. -/
theorem State.hostReset_inv (s : State) : Inv s.hostReset :=
  ⟨(by decide : (0x0200 : Word).toNat ≤ 0x10FE), (by decide : ∀ k : Fin 16, (Vector.replicate 16 (0 : Word))[k].toNat ≤ 0x1000), rfl⟩

/-- A LOAD keeps the invariant. -/
theorem State.hostLoad_keeps_inv {s : State} (image : List Byte) (hs : Inv s) : Inv (s.hostLoad image) := by
  rcases s.hostLoad_cases image with ⟨_, _, e⟩ | ⟨_, _, e⟩ <;> rw [e]
  · have hreset := s.hostReset_inv
    have hframe := s.hostReset.writeImage_frame 0x200 image
    have hpc : (s.hostReset.writeImage 0x200 image).pc = s.hostReset.pc := hframe .pc (by simp)
    have hstack (k : Fin 16) : (s.hostReset.writeImage 0x200 image).stack[k] = s.hostReset.stack[k] :=
      hframe (.stackEntry k) (by simp)
    refine ⟨?_, fun k => ?_, State.wf_writeImage 0x200 image hreset.memCanonical⟩
    · rw [hpc]
      exact hreset.pcBound
    · rw [hstack]
      exact hreset.stackBound k
  · exact hs

/-- Settles O51: a STEP keeps the three parts, TICK and a change of KEYS touch none of them, RESET establishes them and LOAD keeps them. -/
theorem stepKeepsInvariant : Obligations.StepKeepsInvariant := by
  intro s t hs h
  have hdrop (rest : List HostOp) : Inv { s with schedule := rest } := ⟨hs.pcBound, hs.stackBound, hs.memCanonical⟩
  rcases step_inversion h with ⟨rest, hc⟩ | ⟨rest, _, rfl⟩ | ⟨k, rest, _, rfl⟩ | ⟨rest, _, rfl⟩ | ⟨image, rest, _, rfl⟩
  · exact coreStep_keeps_inv hc (hdrop rest)
  · exact ⟨hs.pcBound, hs.stackBound, hs.memCanonical⟩
  · exact ⟨hs.pcBound, hs.stackBound, hs.memCanonical⟩
  · exact State.hostReset_inv _
  · exact State.hostLoad_keeps_inv image (hdrop rest)

/-- Settles O52: the reset state is RESET of itself. -/
theorem resetMeetsInvariant : Obligations.ResetMeetsInvariant := State.hostReset_inv State.reset

end Sys2Proof.Machine

/-! SUPPORT. More of the register ALU (41_alu.md): the logic operations, the two shifts in both dialects, and the random byte. -/

namespace Sys2Proof.Machine

/-! ## Logic (R123 to R125) -/

theorem exec_orReg (x y : RegIx) (s : State) : exec (.orReg x y) s = .next (s.setReg x (s.reg x ||| s.reg y)) := rfl

theorem exec_andReg (x y : RegIx) (s : State) : exec (.andReg x y) s = .next (s.setReg x (s.reg x &&& s.reg y)) := rfl

theorem exec_xorReg (x y : RegIx) (s : State) : exec (.xorReg x y) s = .next (s.setReg x (s.reg x ^^^ s.reg y)) := rfl

/-- Settles O3: one register write each, and each bit of the result is the operation on the two bits. -/
theorem logicIsBitwiseWithoutFlag : Obligations.LogicIsBitwiseWithoutFlag := by
  intro s x y
  refine ⟨⟨_, exec_orReg x y s, fun k => ?_, .setReg s x _ rfl⟩, ⟨_, exec_andReg x y s, fun k => ?_, .setReg s x _ rfl⟩,
    ⟨_, exec_xorReg x y s, fun k => ?_, .setReg s x _ rfl⟩⟩
  · rw [State.reg_setReg_same, BitVec.getLsbD_or, Bool.or_eq_true]
  · rw [State.reg_setReg_same, BitVec.getLsbD_and, Bool.and_eq_true]
  · rw [State.reg_setReg_same, BitVec.getLsbD_xor, bne_iff_ne]

/-! ## Shifts (R128, R130) -/

theorem exec_shrReg (x y : RegIx) (s : State) :
    exec (.shrReg x y) s = .next (s.setResultFlag x (s.shiftOperand x y >>> 1) (shrFlag (s.shiftOperand x y))) := rfl

theorem exec_shlReg (x y : RegIx) (s : State) :
    exec (.shlReg x y) s = .next (s.setResultFlag x (s.shiftOperand x y <<< 1) (shlFlag (s.shiftOperand x y))) := rfl

theorem flagByte_toNat (b : Bool) : (flagByte b).toNat = b.toNat := by cases b <;> rfl

/-- The bit a right shift drops is the remainder modulo 2. -/
theorem shrFlag_toNat (b : Byte) : (shrFlag b).toNat = b.toNat % 2 := by
  rw [shrFlag, flagByte_toNat, BitVec.getLsbD, Nat.toNat_testBit, pow_zero, Nat.div_one]

/-- The bit a left shift drops is the quotient by 128. -/
theorem shlFlag_toNat (b : Byte) : (shlFlag b).toNat = b.toNat / 128 := by
  have hb := b.isLt
  rw [shlFlag, flagByte_toNat, BitVec.getLsbD, Nat.toNat_testBit]
  omega

theorem byte_shiftRight_one_toNat (b : Byte) : (b >>> 1).toNat = b.toNat / 2 := by
  rw [BitVec.toNat_ushiftRight, Nat.shiftRight_eq_div_pow, pow_one]

theorem byte_shiftLeft_one_toNat (b : Byte) : (b <<< 1).toNat = b.toNat * 2 % 256 := by
  rw [BitVec.toNat_shiftLeft, Nat.shiftLeft_eq, pow_one]

/-- Settles O6: both shifts act on the operand of the dialect, and the flag, written last, is the bit shifted out. -/
theorem shiftsFollowTheDialect : Obligations.ShiftsFollowTheDialect := by
  intro s x y operand h
  have hop : s.shiftOperand x y = operand := h.symm
  refine ⟨⟨_, exec_shrReg x y s, fun hx => ?_, ?_, .setResultFlag s x _ _⟩,
    ⟨_, exec_shlReg x y s, fun hx => ?_, ?_, .setResultFlag s x _ _⟩⟩
  · rw [State.reg_setResultFlag_dest s _ _ hx, hop, byte_shiftRight_one_toNat]
  · rw [State.reg_setResultFlag_flag, hop, shrFlag_toNat]
  · rw [State.reg_setResultFlag_dest s _ _ hx, hop, byte_shiftLeft_one_toNat]
  · rw [State.reg_setResultFlag_flag, hop, shlFlag_toNat]

/-- The shift operand in a given dialect. -/
theorem State.shiftOperand_withDialect (s : State) (x y : RegIx) (usesVY : Bool) :
    (s.withDialect usesVY).shiftOperand x y = if usesVY then s.reg y else s.reg x := rfl

/-- The dialect is no part of the registers. -/
theorem State.reg_withDialect (s : State) (usesVY : Bool) (r : RegIx) : (s.withDialect usesVY).reg r = s.reg r := rfl

/-- The registers after a write of result and flag depend on the registers before it, the result and the flag. -/
theorem State.reg_setResultFlag_withDialect (s : State) (usesVY : Bool) (x r : RegIx) (a f : Byte) :
    ((s.withDialect usesVY).setResultFlag x a f).reg r = (s.setResultFlag x a f).reg r := by
  rw [State.reg_setResultFlag, State.reg_setResultFlag, State.reg_withDialect]

/-- Both dialects shift one value where V[Y] = V[X]. -/
theorem shift_dialects_agree (s : State) (x y : RegIx) (i : Instr) (hi : i = .shrReg x y ∨ i = .shlReg x y)
    (heq : s.reg y = s.reg x) :
    ∃ t u, exec i (s.withDialect false) = .next t ∧ exec i (s.withDialect true) = .next u ∧ ∀ r, t.reg r = u.reg r := by
  have hop : (s.withDialect true).shiftOperand x y = (s.withDialect false).shiftOperand x y := heq
  rcases hi with rfl | rfl
  · refine ⟨_, _, exec_shrReg x y _, exec_shrReg x y _, fun r => ?_⟩
    rw [hop, State.reg_setResultFlag_withDialect, State.reg_setResultFlag_withDialect]
  · refine ⟨_, _, exec_shlReg x y _, exec_shlReg x y _, fun r => ?_⟩
    rw [hop, State.reg_setResultFlag_withDialect, State.reg_setResultFlag_withDialect]

/-- With V[X] = 0x00 and V[Y] = 0x81 the legacy dialect shifts a 1 bit out at either end, the modern one a 0 bit. -/
theorem shift_dialects_differ (x y : RegIx) (i : Instr) (hi : i = .shrReg x y ∨ i = .shlReg x y) (hne : x ≠ y) :
    ∃ s t u : State, exec i (s.withDialect false) = .next t ∧ exec i (s.withDialect true) = .next u ∧
      ∃ r, t.reg r ≠ u.reg r := by
  have hmodern : ((State.reset.setReg y 0x81).withDialect false).shiftOperand x y = 0 := by
    have hx : (State.reset.setReg y 0x81).reg x = State.reset.reg x := by rw [State.reg_setReg, if_neg hne]
    have h0 : State.reset.reg x = 0 := Vector.getElem_replicate x.isLt
    rw [State.shiftOperand_withDialect, if_neg Bool.false_ne_true, hx, h0]
  have hlegacy : ((State.reset.setReg y 0x81).withDialect true).shiftOperand x y = 0x81 := by
    rw [State.shiftOperand_withDialect, if_pos rfl, State.reg_setReg_same]
  rcases hi with rfl | rfl
  · refine ⟨State.reset.setReg y 0x81, _, _, exec_shrReg x y _, exec_shrReg x y _, 0xF, ?_⟩
    rw [State.reg_setResultFlag_flag, State.reg_setResultFlag_flag, hmodern, hlegacy]
    decide
  · refine ⟨State.reset.setReg y 0x81, _, _, exec_shlReg x y _, exec_shlReg x y _, 0xF, ?_⟩
    rw [State.reg_setResultFlag_flag, State.reg_setResultFlag_flag, hmodern, hlegacy]
    decide

/-- Settles O7: one operand where the registers agree, and the flag tells the dialects apart in the example. -/
theorem shiftDialectsAgreeOnEqualOperands : Obligations.ShiftDialectsAgreeOnEqualOperands :=
  ⟨shift_dialects_agree, shift_dialects_differ⟩

/-! ## The random byte (R131) -/

theorem exec_rnd (x : RegIx) (kk : Byte) (s : State) :
    exec (.rnd x kk) s = .next (s.rndDrawn.setReg x (Config.freeRnd s.rndDraws &&& kk)) := rfl

/-- Settles O8: one draw, and one register write of the masked byte. -/
theorem randomByteIsMaskedAndDrawnOnce : Obligations.RandomByteIsMaskedAndDrawnOnce := by
  intro s x kk
  refine ⟨_, exec_rnd x kk s, State.reg_setReg_same _ _ _, fun k hk => ?_, rfl, exec_frame (exec_rnd x kk s)⟩
  rw [State.reg_setReg_same, BitVec.getLsbD_and, hk, Bool.and_false]

end Sys2Proof.Machine

/-! SUPPORT. The indexed jump, the register skips and the keypad (42_control_flow.md, 45_input.md). -/

namespace Sys2Proof.Machine

/-- Settles O10: the sum of a 12-bit address and a byte fits in PC. -/
theorem indexedJumpAddsRegisterZero : Obligations.IndexedJumpAddsRegisterZero := fun s nnn =>
  ⟨_, exec_jpV0 nnn s, zextAddr_add_zextByte_toNat nnn (s.reg 0), OnlyChanges.setPc s _ rfl⟩

/-- Settles O16: the two skips test one comparison and its negation. -/
theorem registerSkipsAreComplements : Obligations.RegisterSkipsAreComplements := by
  intro s x y n
  refine ⟨_, _, exec_seReg x y n s, exec_sneReg x y n s, ?_, ?_, .skipIf s _ rfl, .skipIf s _ rfl⟩
  all_goals by_cases h : s.reg x = s.reg y <;> simp [h]

/-- Settles O30: the two skips test one key and its negation. -/
theorem keySkipsAreComplements : Obligations.KeySkipsAreComplements := by
  intro s x
  refine ⟨_, _, exec_skp x s, exec_sknp x s, ?_, ?_, .skipIf s _ rfl, .skipIf s _ rfl⟩
  · rw [State.skipIf_pc]
    rfl
  · rw [State.skipIf_pc]
    by_cases h : s.keys.getLsbD ((s.reg x).toNat % 16) = true <;> simp [State.pressed, State.keyIndex, h]

/-! ## The lowest key (45_input.md R192) -/

/-- No key is pressed exactly when the snapshot is zero. -/
theorem State.lowestKey_eq_none_iff (s : State) : s.lowestKey = none ↔ s.keys = 0 := by
  rw [State.lowestKey, List.find?_eq_none]
  constructor
  · intro h
    refine BitVec.eq_of_getLsbD_eq fun k hk => ?_
    simpa [State.pressed] using h ⟨k, hk⟩ (List.mem_finRange _)
  · rintro h k -
    simp [State.pressed, h]

/-- The lowest key is pressed, and no smaller one is. -/
theorem State.lowestKey_spec {s : State} {k : Fin 16} (h : s.lowestKey = some k) :
    s.keys.getLsbD k.val = true ∧ ∀ j : Fin 16, j < k → s.keys.getLsbD j.val = false := by
  obtain ⟨hk, n, hn, hget, hmin⟩ := List.find?_eq_some_iff_getElem.mp h
  have hnk : n = k.val := by simp [← hget]
  refine ⟨hk, fun j hj => ?_⟩
  have := hmin j.val (by omega)
  simpa [State.pressed] using this

/-- Settles O31: with some key pressed the search finds the smallest one, and V[X] takes its number. -/
theorem keyWaitTakesLowestKey : Obligations.KeyWaitTakesLowestKey := by
  intro s x hkeys
  rcases exec_ldVxKey_cases x s with ⟨k, hk, e⟩ | ⟨hnone, _⟩
  · obtain ⟨hpressed, hmin⟩ := State.lowestKey_spec hk
    refine ⟨_, k, e, hpressed, hmin, ?_, .setReg s x _ rfl⟩
    rw [State.reg_setReg_same, BitVec.toNat_ofNat]
    omega
  · exact absurd (s.lowestKey_eq_none_iff.mp hnone) hkeys

/-- Undoing the advance gives the state back (R192). -/
theorem State.advance_rewind (s : State) : s.advance.rewind = s := by
  have hpc : s.pc + 2 - 2 = s.pc := BitVec.add_sub_cancel _ _
  exact congrArg s.setPc hpc

/-- FX0A with no key pressed, on the advanced state, gives the state before the advance. -/
theorem exec_ldVxKey_waits {s : State} (x : RegIx) (h : s.lowestKey = none) : exec (.ldVxKey x) s.advance = .next s := by
  rcases exec_ldVxKey_cases x s.advance with ⟨k, hk, _⟩ | ⟨_, e⟩
  · exact absurd (h.symm.trans hk) (by simp)
  · rw [e, s.advance_rewind]

/-- Settles O32: the execute phase undoes the advance, and the result of an FX0A that finds no key is NEEDS_INPUT. -/
theorem keyWaitWithoutKeyChangesNothing : Obligations.KeyWaitWithoutKeyChangesNothing := by
  intro s x hf hdec hkeys
  have hnone := s.lowestKey_eq_none_iff.mpr hkeys
  have hcore : coreStep s = .next s := by rw [hf.coreStep_eq, hdec, exec_ldVxKey_waits x hnone]
  have hwait : s.awaitsInput = true := by
    simp [State.awaitsInput, State.canFetch, awaitsKey, hf.running, hf.inRange, hdec, hnone]
  refine ⟨by rw [hf.step_eq_coreStep, hcore], ?_⟩
  rw [coreResult_eq hcore, resultFor, if_pos hwait]

end Sys2Proof.Machine

/-! SUPPORT. Address arithmetic and memory (43_memory_timer.md, 20_memory.md): the sums in I, the font, and the stores and loads from I. -/

namespace Sys2Proof.Machine

theorem exec_addI (x : RegIx) (s : State) : exec (.addI x) s = .next (s.setI (s.i + zextByte (s.reg x))) := rfl

theorem exec_ldFont (x : RegIx) (s : State) :
    exec (.ldFont x) s = .next (s.setI (BitVec.ofNat 16 (s.cfg.fontBase.val + 5 * (s.reg x).toNat))) := rfl

theorem exec_storeBcd (x : RegIx) (s : State) : exec (.storeBcd x) s = .next (s.checked 3 (s.writeDigits (s.reg x))) := rfl

theorem exec_storeRegs (x : RegIx) (s : State) : exec (.storeRegs x) s = .next (s.checked (x.val + 1) (s.writeRegs x)) := rfl

theorem exec_loadRegs (x : RegIx) (s : State) : exec (.loadRegs x) s = .next (s.checked (x.val + 1) (s.readRegs x)) := rfl

theorem exec_drw (x y : RegIx) (n : Nibble) (s : State) : exec (.drw x y n) s =
    .next (s.checked n.toNat ((s.setReg regF 0).drawSprite ((s.reg x).toNat % 64) ((s.reg y).toNat % 32) n.toNat)) := rfl

/-! ## The address register -/

/-- Settles O19: addition in 16 bits is addition modulo 65536. -/
theorem addToAddressWrapsAtSixteenBits : Obligations.AddToAddressWrapsAtSixteenBits := by
  intro s x
  refine ⟨_, exec_addI x s, ?_, exec_frame (exec_addI x s)⟩
  rw [State.setI_i, BitVec.toNat_add, zextByte_toNat]

/-- A font address fits in 16 bits, below 4096 (R165). -/
theorem fontAddress_toNat (base : Fin 433) (b : Byte) :
    (BitVec.ofNat 16 (base.val + 5 * b.toNat)).toNat = base.val + 5 * b.toNat ∧ base.val + 5 * b.toNat ≤ 0x6AB := by
  have hb := b.isLt
  have hbase := base.isLt
  rw [BitVec.toNat_ofNat]
  omega

/-- Settles O20: FONT_BASE is at most 432 and the byte at most 255. -/
theorem fontAddressIsUnmasked : Obligations.FontAddressIsUnmasked := by
  intro s x
  obtain ⟨hi, hle⟩ := fontAddress_toNat s.cfg.fontBase (s.reg x)
  exact ⟨_, exec_ldFont x s, hi, hi.trans_le hle, exec_frame (exec_ldFont x s)⟩

/-! ## What reset leaves in memory (10_state.md R30, R32) -/

/-- Where nothing has been written a byte is its reset content. -/
theorem State.memByte_of_mem_nil {s : State} (h : s.mem = []) (a : Nat) : s.memByte a = resetByte s.cfg a := by
  rw [State.memByte, h]
  rfl

theorem resetByte_font (c : Config) (k : Fin 80) : resetByte c (c.fontBase.val + k.val) = c.font[k] := by
  simp [resetByte]

theorem resetByte_zero (c : Config) {a : Nat} (h : a < c.fontBase.val ∨ c.fontBase.val + 80 ≤ a) : resetByte c a = 0 := by
  rw [resetByte]
  split
  · next hle => rw [Vector.getElem?_eq_none (by omega)]; rfl
  · rfl

/-- Settles O21: with nothing written the byte at FONT_BASE + j reads as entry j of the table. -/
theorem fontAddressPointsAtGlyph : Obligations.FontAddressPointsAtGlyph := by
  intro s x k hmem hdigit
  refine ⟨_, exec_ldFont x s, ?_⟩
  have hj : 5 * (s.reg x).toNat + k.val < 80 := by omega
  rw [State.setI_i, (fontAddress_toNat s.cfg.fontBase (s.reg x)).1, State.memByte_setI, State.memByte_of_mem_nil hmem, Nat.add_assoc,
    resetByte_font s.cfg ⟨_, hj⟩]
  exact Vector.getElem?_eq_getElem hj

/-! ## The range check (20_memory.md R46) -/

theorem State.checked_of_le {s : State} {c : Nat} (t : State) (h : c = 0 ∨ s.i.toNat + (c - 1) ≤ 4095) : s.checked c t = t :=
  if_pos h

/-- A range that passes 4095 raises MemFault. -/
theorem State.checked_of_lt {s : State} {c : Nat} (t : State) (hc : 1 ≤ c) (h : 4095 < s.i.toNat + (c - 1)) :
    s.checked c t = s.raise .memFault := if_neg (by omega)

theorem endsInFault_of_checked {i : Instr} {s t : State} {c : Nat} (hx : exec i s = .next (s.checked c t)) (hc : 1 ≤ c)
    (h : 4095 < s.i.toNat + (c - 1)) : EndsInFault i s .faultMem :=
  endsInFault_of_raise (e := .memFault) (by rw [hx, s.checked_of_lt t hc h])

/-- Settles O25: each of the four checks its whole range before any effect. -/
theorem rangeFaultsArePrecise : Obligations.RangeFaultsArePrecise := fun s x y n =>
  ⟨fun hn h => endsInFault_of_checked (exec_drw x y n s) hn h,
   fun h => endsInFault_of_checked (exec_storeBcd x s) (by decide) h,
   fun h => endsInFault_of_checked (exec_storeRegs x s) (Nat.le_add_left 1 _) h,
   fun h => endsInFault_of_checked (exec_loadRegs x s) (Nat.le_add_left 1 _) h⟩

/-! ## FX33 (43_memory_timer.md R166) -/

theorem hundreds_toNat (b : Byte) : (hundreds b).toNat = b.toNat / 100 := by
  rw [hundreds, BitVec.toNat_ofNat]
  omega

theorem tens_toNat (b : Byte) : (tens b).toNat = b.toNat / 10 % 10 := by
  rw [tens, BitVec.toNat_ofNat]
  omega

theorem ones_toNat (b : Byte) : (ones b).toNat = b.toNat % 10 := by
  rw [ones, BitVec.toNat_ofNat]
  omega

/-- Three bytes from I are written, the hundreds digit first. -/
theorem State.writeDigits_eq (s : State) (b : Byte) : s.writeDigits b =
    ((s.writeByte s.i.toNat (hundreds b)).writeByte (s.i.toNat + 1) (tens b)).writeByte (s.i.toNat + 2) (ones b) := by
  simp [State.writeDigits, State.ea]

theorem State.writeDigits_frame (s : State) (b : Byte) :
    OnlyChanges (fun p => ∃ k, k ≤ 2 ∧ p = .memByte (s.i.toNat + k)) s (s.writeDigits b) := by
  rw [State.writeDigits_eq]
  exact ((OnlyChanges.writeByte _ _ _ ⟨0, by decide, rfl⟩).trans (.writeByte _ _ _ ⟨1, by decide, rfl⟩)).trans
    (.writeByte _ _ _ ⟨2, by decide, rfl⟩)

/-- Settles O22: the three stores go to distinct addresses, and the check comes before the first of them. -/
theorem bcdStoresDecimalDigits : Obligations.BcdStoresDecimalDigits := by
  intro s x
  refine ⟨fun hle => ⟨s.writeDigits (s.reg x), ?_, ?_, ?_, ?_, s.writeDigits_frame _⟩,
    fun h => endsInFault_of_checked (exec_storeBcd x s) (by decide) h⟩
  · rw [exec_storeBcd, s.checked_of_le _ (.inr hle)]
  · rw [State.writeDigits_eq, State.memByte_writeByte, if_neg (by omega), State.memByte_writeByte, if_neg (by omega),
      State.memByte_writeByte, if_pos (by omega), hundreds_toNat]
  · rw [State.writeDigits_eq, State.memByte_writeByte, if_neg (by omega), State.memByte_writeByte, if_pos (by omega), tens_toNat]
  · rw [State.writeDigits_eq, State.memByte_writeByte, if_pos (by omega), ones_toNat]

/-! ## FX55 and FX65 (43_memory_timer.md R167, R168) -/

theorem State.memByte_writeRegs {s : State} {x : RegIx} (hle : s.i.toNat + x.val ≤ 4095) {r : RegIx} (hr : r ≤ x) :
    (s.writeRegs x).memByte (s.i.toNat + r.val) = s.reg r := by
  refine writeLoop_value (regsUpTo x) s (fun q hq => ?_) (nodup_regsUpTo x) r ((mem_regsUpTo x r).mpr hr)
  have : q.val ≤ x.val := (mem_regsUpTo x q).mp hq
  omega

theorem State.writeRegs_frame (s : State) (x : RegIx) :
    OnlyChanges (fun p => ∃ k, k ≤ x.val ∧ p = .memByte (s.i.toNat + k)) s (s.writeRegs x) := fun p hp =>
  writeLoop_frame (regsUpTo x) s p fun r hr he => hp ⟨r.val, (mem_regsUpTo x r).mp hr, he⟩

theorem State.reg_readRegs (s : State) {x r : RegIx} (hr : r ≤ x) : (s.readRegs x).reg r = s.memByte (s.i.toNat + r.val) :=
  readLoop_value (regsUpTo x) s (nodup_regsUpTo x) r ((mem_regsUpTo x r).mpr hr)

theorem State.readRegs_frame (s : State) (x : RegIx) : OnlyChanges (fun p => ∃ r : RegIx, r ≤ x ∧ p = .reg r) s (s.readRegs x) :=
  fun p hp => readLoop_frame (regsUpTo x) s p fun r hr he => hp ⟨r, (mem_regsUpTo x r).mp hr, he⟩

theorem exec_storeRegs_of_le {s : State} {x : RegIx} (hle : s.i.toNat + x.val ≤ 4095) :
    exec (.storeRegs x) s = .next (s.writeRegs x) := by
  rw [exec_storeRegs, s.checked_of_le _ (.inr hle)]

theorem exec_loadRegs_of_le {s : State} {x : RegIx} (hle : s.i.toNat + x.val ≤ 4095) :
    exec (.loadRegs x) s = .next (s.readRegs x) := by
  rw [exec_loadRegs, s.checked_of_le _ (.inr hle)]

/-- Settles O23: the loop stores to distinct addresses inside the checked range. -/
theorem blockStoreWritesExactlyItsRange : Obligations.BlockStoreWritesExactlyItsRange := fun s x hle =>
  ⟨_, exec_storeRegs_of_le hle, fun _ hr => State.memByte_writeRegs hle hr, s.writeRegs_frame x⟩

/-- Settles O24: the loop writes registers alone, so each load reads memory as it was before the first. -/
theorem blockLoadReadsExactlyItsRange : Obligations.BlockLoadReadsExactlyItsRange := fun s x hle =>
  ⟨_, exec_loadRegs_of_le hle, fun _ hr => s.reg_readRegs hr, s.readRegs_frame x⟩

/-- Settles O26: the store leaves I, so the load reads the bytes that the store has written. -/
theorem blockLoadAfterStoreRestores : Obligations.BlockLoadAfterStoreRestores := by
  intro s x hle
  refine ⟨_, exec_storeRegs_of_le hle, fun t' hi hmem => ?_⟩
  have hi' : t'.i = s.i := hi.trans (s.writeRegs_frame x .i (by simp))
  refine ⟨_, exec_loadRegs_of_le (by rw [hi']; exact hle), fun r hr => ?_⟩
  rw [State.reg_readRegs _ hr, hi', hmem, State.memByte_writeRegs hle hr]

end Sys2Proof.Machine

/-! SUPPORT. The sprite draw (44_display.md section 2): DXYN in closed form, and the same sprite drawn twice. -/

namespace Sys2Proof.Machine

/-- DXYN whose range fits is one draw over the cells its 1 bits hit, from the state with the flag cleared. -/
theorem exec_drw_draws {s : State} (x y : RegIx) {n : Nibble} (hn : n = 0 ∨ s.i.toNat + (n.toNat - 1) ≤ 4095) :
    ∃ t, exec (.drw x y n) s = .next t ∧
      Draws (SpriteHits s ((s.reg x).toNat % 64) ((s.reg y).toNat % 32) n.toNat) (s.setReg regF 0) t := by
  have hlt := n.isLt
  have hfits : n.toNat = 0 ∨ s.i.toNat + (n.toNat - 1) ≤ 4095 := hn.imp_left fun h => by rw [h]; rfl
  exact ⟨_, by rw [exec_drw, s.checked_of_le _ hfits], State.drawSprite_draws _ _ n.toNat (by omega) (s.setReg regF 0)⟩

/-- Settles O28: the draw toggles the hit cells, each once, and sets the cleared flag on a collision. -/
theorem drawTogglesTheSprite : Obligations.DrawTogglesTheSprite := by
  rintro s x y n _ _ hn rfl rfl
  obtain ⟨t, e, d⟩ := exec_drw_draws x y hn
  refine ⟨t, e, d.hit, d.on, fun h => (d.off h).trans (State.reg_setReg_same _ _ _), ?_⟩
  have hflag : OnlyChanges (fun p => p = .reg 0xF ∨ ∃ px py, p = .cell px py) s (s.setReg regF 0) := .setReg s regF 0 (.inl rfl)
  refine (hflag.trans d.frame).strengthen ?_
  rintro p (rfl | ⟨px, py, rfl⟩) hp
  · simp at hp
  · exact d.miss px py fun hhit => hp (.inr ⟨px, py, hhit, rfl⟩)

/-- A sprite hits the same cells where I and memory are the same. -/
theorem spriteHits_congr {s t : State} (hi : t.i = s.i) (hmem : ∀ a, t.memByte a = s.memByte a) (x0 y0 n : Nat) :
    SpriteHits t x0 y0 n = SpriteHits s x0 y0 n := by
  funext px py
  rw [SpriteHits, SpriteHits, hi]
  simp only [hmem]

/-- Settles O29: the second draw toggles the same cells back, and meets a cell on exactly where the first met it off. -/
theorem drawTwiceRestoresDisplay : Obligations.DrawTwiceRestoresDisplay := by
  intro s x y n hx hy hn
  obtain ⟨t, et, thit, -, -, tframe⟩ := drawTogglesTheSprite s x y n _ _ hn rfl rfl
  have ti : t.i = s.i := tframe .i (by simp)
  have hhits : SpriteHits t ((t.reg x).toNat % 64) ((t.reg y).toNat % 32) n.toNat =
      SpriteHits s ((s.reg x).toNat % 64) ((s.reg y).toNat % 32) n.toNat := by
    have tx : t.reg x = s.reg x := tframe (.reg x) (by simp [hx])
    have ty : t.reg y = s.reg y := tframe (.reg y) (by simp [hy])
    rw [tx, ty]
    exact spriteHits_congr ti (fun a => tframe (.memByte a) (by simp)) _ _ _
  obtain ⟨u, eu, uhit, uon, uoff, uframe⟩ := drawTogglesTheSprite t x y n _ _ (by rwa [ti]) rfl rfl
  simp only [hhits] at uhit uon uoff uframe
  refine ⟨t, u, et, eu, ⟨fun hu => ?_, ?_⟩, (tframe.trans uframe).strengthen ?_⟩
  · by_contra hno
    have hall : ¬ ∃ px py, SpriteHits s ((s.reg x).toNat % 64) ((s.reg y).toNat % 32) n.toNat px py ∧ t.cell px py = true := by
      rintro ⟨px, py, hhit, hon⟩
      exact hno ⟨px, py, hhit, by simpa [thit px py hhit] using hon⟩
    exact absurd (hu.symm.trans (uoff hall)) (by decide)
  · rintro ⟨px, py, hhit, hoff⟩
    exact uon ⟨px, py, hhit, by rw [thit px py hhit, hoff]; rfl⟩
  · rintro p (rfl | ⟨px, py, hhit, rfl⟩) hp
    · simp at hp
    · have huc : u.cell px py = s.cell px py := by rw [uhit px py hhit, thit px py hhit, Bool.not_not]
      exact huc

end Sys2Proof.Machine

/-! SUPPORT. The step cycle (40_step_cycle.md): STEP under an empty schedule and under one that names it, and its result. -/

namespace Sys2Proof.Machine

theorem step_eq_coreStep {s : State} (h : s.schedule = []) : step s = coreStep s := by
  rw [step, nextOperation, h]

/-- A STEP that the schedule names is the STEP of the state with that operation taken off. -/
theorem step_of_scheduled_step {s : State} {rest : List HostOp} (h : s.schedule = .step :: rest) :
    step s = coreStep { s with schedule := rest } := by
  rw [step, nextOperation, h]

/-- A fetched word is its two bytes, the first one more significant (20_memory.md R48). -/
theorem wordOfBytes_toNat (hi lo : Byte) : (wordOfBytes hi lo).toNat = hi.toNat * 256 + lo.toNat := append_toNat hi lo

/-- Settles O34: the gate lets the STEP through and the fetch fits, whichever way the STEP is issued. -/
theorem stepRunsDecodedInstruction : Obligations.StepRunsDecodedInstruction := by
  refine ⟨fun s hf => ⟨hf.step_eq, wordOfBytes_toNat _ _, hf.advance_pc_toNat, OnlyChanges.advance s⟩, ?_⟩
  intro s rest hs hrun hpc
  rw [step_of_scheduled_step hs]
  rcases coreStep_cases { s with schedule := rest } with ⟨h, _⟩ | ⟨_, h, _⟩ | ⟨_, _, e⟩
  · exact absurd hrun h
  · exact absurd hpc (of_decide_eq_false h)
  · exact e

/-! ## The result of a STEP (R108) -/

theorem resultOfStatus_eq_ok_iff (st : Status) : resultOfStatus st = .ok ↔ st = .running := by
  cases st <;> simp [resultOfStatus]

theorem resultOfStatus_eq_halted_iff (st : Status) : resultOfStatus st = .halted ↔ st = .haltedPc := by
  cases st <;> simp [resultOfStatus]

theorem resultOfStatus_ne_needsInput (st : Status) : resultOfStatus st ≠ .needsInput := by
  cases st <;> simp [resultOfStatus]

/-- A STEP that awaits input is an FX0A that finds no key, and leaves the state as it was. -/
theorem coreStep_of_awaitsInput {s : State} (h : s.awaitsInput = true) : s.status = .running ∧ coreStep s = .next s := by
  simp only [State.awaitsInput, Bool.and_eq_true, decide_eq_true_eq] at h
  obtain ⟨⟨hrun, hfetch⟩, hwait⟩ := h
  refine ⟨hrun, ?_⟩
  cases hdec : decode s.fetchWord
  case ldVxKey x =>
    rw [hdec] at hwait
    rcases coreStep_cases s with ⟨h, _⟩ | ⟨_, h, _⟩ | ⟨_, _, e⟩
    · exact absurd hrun h
    · exact absurd hfetch (by simp [h])
    · rw [e, hdec, exec_ldVxKey_waits x (Option.isNone_iff_eq_none.mp hwait)]
  all_goals simp [hdec, awaitsKey] at hwait

/-- A stopped machine, and one that cannot fetch, awaits no input. -/
theorem State.awaitsInput_eq_false {s : State} (h : s.status ≠ .running ∨ s.canFetch = false) : s.awaitsInput = false := by
  rcases h with h | h <;> simp [State.awaitsInput, h]

/-- Settles O39: a STEP that awaits input is the identity, and any other returns the result of the STATUS it leaves. -/
theorem stepResultFollowsStatus : Obligations.StepResultFollowsStatus := by
  intro s
  by_cases hwait : s.awaitsInput = true
  · obtain ⟨hrun, hcore⟩ := coreStep_of_awaitsInput hwait
    refine ⟨s, .needsInput, hcore, by rw [coreResult_eq hcore, resultFor, if_pos hwait], ?_, ?_, fun _ => rfl⟩
    · simp [hrun]
    · simp [hrun]
  · obtain ⟨t, hcore⟩ := coreStep_answers s
    refine ⟨t, resultOfStatus t.status, hcore, by rw [coreResult_eq hcore, resultFor, if_neg hwait], ?_,
      resultOfStatus_eq_halted_iff _, fun h => absurd h (resultOfStatus_ne_needsInput _)⟩
    rw [resultOfStatus_eq_ok_iff, or_iff_left (resultOfStatus_ne_needsInput _)]

/-- A STEP of a machine that is RUNNING past the last fetchable PC raises HaltPc (R102). -/
theorem coreStep_of_past_memory {s : State} (hrun : s.status = .running) (hpc : 0x0FFE < s.pc.toNat) :
    coreStep s = .next (s.raise .haltPc) := by
  have hfetch : s.canFetch = false := decide_eq_false (by omega)
  simp [coreStep, hrun, hfetch]

/-- Settles O35: the fetch precondition fails, so HaltPc is raised and PC is not advanced. -/
theorem pcPastMemoryHalts : Obligations.PcPastMemoryHalts := by
  intro s hs hrun hpc
  have hcore := coreStep_of_past_memory hrun hpc
  have hwait : s.awaitsInput = false := State.awaitsInput_eq_false (.inr (decide_eq_false (by omega)))
  refine ⟨_, by rw [step_eq_coreStep hs, hcore], rfl, OnlyChanges.raise s .haltPc, ?_⟩
  rw [coreResult_eq hcore, resultFor, hwait]
  rfl

/-- Settles O36: the status gate lets nothing through. -/
theorem stoppedMachineIgnoresStep : Obligations.StoppedMachineIgnoresStep := by
  intro s hs hstop
  have hcore : coreStep s = .next s := if_pos hstop
  refine ⟨by rw [step_eq_coreStep hs, hcore], ?_, fun h => hstop ((resultOfStatus_eq_ok_iff _).mp h), resultOfStatus_ne_needsInput _⟩
  rw [coreResult_eq hcore, resultFor, State.awaitsInput_eq_false (.inl hstop)]
  rfl

/-! ## The ends of a run (70_reset_and_hazards.md sections 3 and 4) -/

/-- Settles O57: the jump writes the PC that the advance has left behind. -/
theorem parkedMachineStaysParked : Obligations.ParkedMachineStaysParked := by
  rintro s ⟨hrun, hpc, nnn, hdec, htarget⟩ hs
  have hf : Fetches s := ⟨hs, hrun, hpc⟩
  have hzext : zextAddr nnn = s.pc := BitVec.eq_of_toNat_eq (by rw [zextAddr_toNat, htarget])
  rw [hf.step_eq, hdec, exec_jp, hzext]
  rfl

/-- The machine's run takes one step and goes on from there. -/
theorem run_succ_of_step {s t : State} (n : Nat) (h : step s = .next t) :
    Host.Core.run Sys2Proof.core (n + 1) s = Host.Core.run Sys2Proof.core n t := by
  have hcore : Sys2Proof.core.step s = .next t := h
  simp only [Host.Core.run, hcore]

/-- A STEP over two zero bytes is the advance: the word 0x0000 is unmapped. -/
theorem Fetches.step_of_zero {s : State} (hf : Fetches s) (h0 : s.memByte s.pc.toNat = 0) (h1 : s.memByte (s.pc.toNat + 1) = 0) :
    step s = .next s.advance := by
  have hw : unmapped s.fetchWord = true := by
    rw [State.fetchWord, h0, h1]
    decide
  rw [hf.step_eq_coreStep, hf.coreStep_of_unmapped hw]

/-- Settles O58, by induction on the number of STEPs: one of them advances PC over two zero bytes, and at 0x1000 the next one halts. -/
theorem zeroedMemorySlidesToHalt : Obligations.ZeroedMemorySlidesToHalt := by
  intro n
  induction n with
  | zero =>
    intro s hs hrun hpc _
    have hend : s.pc = 0x1000 := BitVec.eq_of_toNat_eq hpc
    have hself : s.setPc 0x1000 = s := by rw [← hend]; rfl
    have hhalt : step s = .next (s.raise .haltPc) := by
      rw [step_eq_coreStep hs, coreStep_of_past_memory hrun (by omega)]
    rw [hself]
    exact ⟨rfl, run_succ_of_step 0 hhalt⟩
  | succ n ih =>
    intro s hs hrun hpc hzero
    have hf : Fetches s := ⟨hs, hrun, by omega⟩
    have hstep := hf.step_of_zero (hzero _ (by omega) (by omega)) (hzero _ (by omega) (by omega))
    have hadv := hf.advance_pc_toNat
    obtain ⟨hrunN, hrunN1⟩ := ih s.advance hs hrun (by omega) fun a hlo hhi => hzero a (by omega) hhi
    exact ⟨(run_succ_of_step n hstep).trans hrunN, (run_succ_of_step (n + 1) hstep).trans hrunN1⟩

end Sys2Proof.Machine

/-! SUPPORT. The operations of the host (60_exceptions.md section 7, 70_reset_and_hazards.md sections 1 and 2). -/

namespace Sys2Proof.Machine

/-! ## TICK and a change of KEYS -/

theorem step_of_tick {s : State} {rest : List HostOp} (h : s.schedule = .tick :: rest) :
    step s = .next (State.hostTick { s with schedule := rest }) := by
  rw [step, nextOperation, h]

theorem step_of_setKeys {s : State} {k : BitVec 16} {rest : List HostOp} (h : s.schedule = .setKeys k :: rest) :
    step s = .next (State.hostSetKeys { s with schedule := rest } k) := by
  rw [step, nextOperation, h]

theorem step_of_reset {s : State} {rest : List HostOp} (h : s.schedule = .reset :: rest) :
    step s = .next (State.hostReset { s with schedule := rest }) := by
  rw [step, nextOperation, h]

theorem step_of_load {s : State} {image : List Byte} {rest : List HostOp} (h : s.schedule = .load image :: rest) :
    step s = .next (State.hostLoad { s with schedule := rest } image) := by
  rw [step, nextOperation, h]

/-- Truncated subtraction says both cases of a timer's tick. -/
theorem tickTimer_toNat (b : Byte) : (tickTimer b).toNat = b.toNat - 1 := by
  unfold tickTimer
  split
  · next h => rw [h]; rfl
  · next h => bv_omega

/-- Taking an operation off the schedule changes the schedule alone. -/
theorem OnlyChanges.schedule {w : Part → Prop} (s : State) (rest : List HostOp) (hw : w .schedule) :
    OnlyChanges w s { s with schedule := rest } := by
  intro p hp
  cases p
  case schedule => exact absurd hw hp
  all_goals rfl

theorem OnlyChanges.hostTick (s : State) : OnlyChanges (fun p => p = .dt ∨ p = .st) s s.hostTick := by
  intro p hp
  cases p <;> simp_all [Part.Same]

theorem OnlyChanges.hostSetKeys (s : State) (k : BitVec 16) : OnlyChanges (fun p => p = .keys) s (s.hostSetKeys k) := by
  intro p hp
  cases p <;> simp_all [Part.Same]

/-- A TICK that is next in the schedule changes the timers and the schedule. -/
theorem OnlyChanges.scheduledTick (s : State) (rest : List HostOp) :
    OnlyChanges (fun p => p = .dt ∨ p = .st ∨ p = .schedule) s (State.hostTick { s with schedule := rest }) :=
  (OnlyChanges.schedule s rest (.inr (.inr rfl))).trans ((OnlyChanges.hostTick _).mono fun _ hp => hp.imp_right .inl)

/-- Settles O40: each operation of the host is one record update. -/
theorem tickAndKeyChangesAreLocal : Obligations.TickAndKeyChangesAreLocal := by
  intro s rest k
  refine ⟨fun hs => ?_, fun hs => ?_⟩
  · exact ⟨_, step_of_tick hs, tickTimer_toNat s.dt, tickTimer_toNat s.st, rfl, OnlyChanges.scheduledTick s rest⟩
  · exact ⟨_, step_of_setKeys hs, rfl, rfl,
      (OnlyChanges.schedule s rest (.inr rfl)).trans ((OnlyChanges.hostSetKeys _ k).mono fun _ hp => .inl hp)⟩

/-- Settles O41, by induction on the number of TICKs. -/
theorem manyTicksStopAtZero : Obligations.ManyTicksStopAtZero := by
  intro n
  induction n with
  | zero =>
    intro s rest hs
    exact ⟨s, rfl, rfl, rfl, hs, OnlyChanges.refl _ _⟩
  | succ n ih =>
    intro s rest hs
    obtain ⟨t, erun, tdt, tst, tsched, tframe⟩ := ih (State.hostTick { s with schedule := List.replicate n .tick ++ rest }) rest rfl
    refine ⟨t, (run_succ_of_step n (step_of_tick hs)).trans erun, ?_, ?_, tsched, (OnlyChanges.scheduledTick s _).trans tframe⟩
    · rw [tdt, State.hostTick_dt, tickTimer_toNat, Nat.sub_sub, Nat.add_comm]
    · rw [tst, State.hostTick_st, tickTimer_toNat, Nat.sub_sub, Nat.add_comm]

/-! ## RESET (70_reset_and_hazards.md R240) -/

theorem State.hostReset_registers (s : State) : RegistersReset s.hostReset where
  v r := Vector.getElem_replicate r.isLt
  i := rfl
  pc := rfl
  sp := rfl
  stack k := Vector.getElem_replicate k.isLt
  dt := rfl
  st := rfl
  disp x y := State.reset.cell_clearDisplay x y
  status := rfl

/-- A byte that nothing has written since reset is what R42 puts there. -/
theorem byteReset_of_memByte {s : State} {a : Nat} (h : s.memByte a = resetByte s.cfg a) : ByteReset s a where
  font k hk := by rw [h, hk, resetByte_font]
  zero hz := by rw [h, resetByte_zero s.cfg hz]

theorem State.hostReset_memByte (s : State) (a : Nat) : s.hostReset.memByte a = resetByte s.hostReset.cfg a :=
  State.memByte_of_mem_nil rfl a

/-- Settles O43: RESET copies the four fields it keeps and takes every other one from the reset state. -/
theorem resetRestoresEveryPart : Obligations.ResetRestoresEveryPart := fun _ _ hs =>
  ⟨_, step_of_reset hs, State.hostReset_registers _, fun a _ => byteReset_of_memByte (State.hostReset_memByte _ a), rfl, rfl, rfl, rfl⟩

/-- Settles O42: the reset state is RESET of itself, and its configuration is the default one. -/
theorem resetStateHoldsTable : Obligations.ResetStateHoldsTable :=
  ⟨State.reset.hostReset_registers, fun a _ => byteReset_of_memByte (State.reset.hostReset_memByte a), rfl, rfl⟩

/-! ## LOAD (70_reset_and_hazards.md R241) -/

/-- A byte outside the image keeps its value. -/
theorem State.memByte_writeImage_outside (s : State) {a a' : Nat} (image : List Byte) (h : a' < a ∨ a + image.length ≤ a') :
    (s.writeImage a image).memByte a' = s.memByte a' := by
  induction image generalizing s a with
  | nil => rfl
  | cons b bs ih =>
    rw [List.length_cons] at h
    rw [State.writeImage, ih _ (by omega), State.memByte_writeByte, if_neg (by omega)]

/-- Byte `k` of an image stands at `a + k`. -/
theorem State.memByte_writeImage_inside (s : State) {a k : Nat} (image : List Byte) (hk : k < image.length)
    (hfit : a + image.length ≤ 4096) : (s.writeImage a image).memByte (a + k) = image[k] := by
  induction image generalizing s a k with
  | nil => simp at hk
  | cons b bs ih =>
    rw [List.length_cons] at hk hfit
    rw [State.writeImage]
    cases k with
    | zero => rw [State.memByte_writeImage_outside _ _ (by omega), State.memByte_writeByte, if_pos (by omega), List.getElem_cons_zero]
    | succ k =>
      have := ih (s.writeByte a b) (a := a + 1) (k := k) (by omega) (by omega)
      rwa [show a + 1 + k = a + (k + 1) by omega] at this

/-- A change of memory leaves the reset values of everything else. -/
theorem RegistersReset.of_memory_frame {s t : State} (h : RegistersReset s) (hf : OnlyChanges (fun p => ∃ a, p = .memByte a) s t) :
    RegistersReset t where
  v r := Eq.trans (hf (.reg r) (by simp)) (h.v r)
  i := Eq.trans (hf .i (by simp)) h.i
  pc := Eq.trans (hf .pc (by simp)) h.pc
  sp := Eq.trans (hf .sp (by simp)) h.sp
  stack k := Eq.trans (hf (.stackEntry k) (by simp)) (h.stack k)
  dt := Eq.trans (hf .dt (by simp)) h.dt
  st := Eq.trans (hf .st (by simp)) h.st
  disp x y := Eq.trans (hf (.cell x y) (by simp)) (h.disp x y)
  status := Eq.trans (hf .status (by simp)) h.status

/-- Settles O44: an image that fits is written over the reset state, byte by byte inside memory. -/
theorem loadPlacesImageOrRefuses : Obligations.LoadPlacesImageOrRefuses := by
  intro s image rest hs
  have hstep := step_of_load hs
  rcases State.hostLoad_cases { s with schedule := rest } image with ⟨hfit, hres, e⟩ | ⟨hbig, hres, e⟩ <;> rw [e] at hstep
  · refine ⟨fun _ => ?_, fun h => absurd h (by omega)⟩
    set r := State.hostReset { s with schedule := rest }
    have hf := r.writeImage_frame 0x200 image
    have hcfg : (r.writeImage 0x200 image).cfg = s.cfg := hf .cfg (by simp)
    refine ⟨_, hstep, hres, (State.hostReset_registers _).of_memory_frame hf, fun k hk => ?_, fun a ha => byteReset_of_memByte ?_,
      hf .schedule (by simp), hcfg, hf .keys (by simp), hf .rndDraws (by simp)⟩
    · rw [r.memByte_writeImage_inside image hk (by omega), List.getElem?_eq_getElem hk]
    · rw [r.memByte_writeImage_outside image (ha.imp_right And.left), hcfg]
      exact State.hostReset_memByte _ a
  · exact ⟨fun h => absurd h (by omega), fun _ => ⟨_, hstep, hres, rfl, OnlyChanges.schedule s rest rfl⟩⟩

end Sys2Proof.Machine

/-! SUPPORT. The registers as the whole machine writes them (10_state.md section 2). -/

namespace Sys2Proof.Machine

theorem State.flag_setResultFlag (s : State) (x : RegIx) (a : Byte) (b : Bool) :
    (s.setResultFlag x a (flagByte b)).reg 0xF = 0 ∨ (s.setResultFlag x a (flagByte b)).reg 0xF = 1 := by
  rw [State.reg_setResultFlag_flag]
  exact flagByte_cases b

/-- A draw leaves V[0xF] at 1 on a collision, else as it was. -/
theorem Draws.flag {H : Fin 64 → Fin 32 → Prop} {s t : State} (d : Draws H s t) : t.reg 0xF = s.reg 0xF ∨ t.reg 0xF = 1 := by
  by_cases h : ∃ x y, H x y ∧ s.cell x y = true
  · exact .inr (d.on h)
  · exact .inl (d.off h)

/-- A flag-writing operation that ends RUNNING leaves 0 or 1 in V[0xF] (10_state.md R11). -/
theorem exec_flag {i : Instr} {s t : State} (h : exec i s = .next t) (hi : WritesFlag i) (hrun : t.status = .running) :
    t.reg 0xF = 0 ∨ t.reg 0xF = 1 := by
  cases i
  case addReg | subReg | subnReg | shrReg | shlReg =>
    cases h
    exact State.flag_setResultFlag _ _ _ _
  case drw x y n =>
    by_cases hn : n.toNat = 0 ∨ s.i.toNat + (n.toNat - 1) ≤ 4095
    · obtain ⟨u, e, d⟩ := exec_drw_draws x y (hn.imp_left fun h0 => BitVec.eq_of_toNat_eq h0)
      rw [e] at h
      cases h
      exact d.flag.imp_left fun hf => hf.trans (State.reg_setReg_same _ _ _)
    · rw [exec_drw, s.checked_of_lt _ (by omega) (by omega)] at h
      cases h
      cases hrun
  all_goals exact hi.elim

/-- Settles O45: the frame of an instruction names its registers, and the six flags are 0 or 1. -/
theorem registersChangeOnlyAsNamed : Obligations.RegistersChangeOnlyAsNamed := fun _ _ _ h =>
  ⟨fun r hr => writers_of_reg (mayWrite_of_changed h (.reg r) hr), fun hi _ hrun => exec_flag h hi hrun⟩

end Sys2Proof.Machine

/-! SUPPORT. Noninterference (10_state.md sections 6 and 8): an overlay of ST and KEYS commutes with the execute phase. -/

namespace Sys2Proof.Machine

/-- The same state with another sound timer and another key snapshot. -/
def State.overlay (s : State) (b : Byte) (k : BitVec 16) : State := { s with st := b, keys := k }

theorem State.setSt_eq_overlay (s : State) (b : Byte) : s.setSt b = s.overlay b s.keys := rfl

theorem State.hostSetKeys_eq_overlay (s : State) (k : BitVec 16) : s.hostSetKeys k = s.overlay s.st k := rfl

section
variable (s : State) (b : Byte) (k : BitVec 16)

theorem State.overlay_writeByte (a : Nat) (c : Byte) : (s.overlay b k).writeByte a c = (s.writeByte a c).overlay b k := by
  unfold State.writeByte
  split <;> rfl

theorem State.overlay_checked (c : Nat) (t : State) : (s.overlay b k).checked c (t.overlay b k) = (s.checked c t).overlay b k :=
  (apply_ite (fun u => State.overlay u b k) (s.rangeOk c) t (s.raise .memFault)).symm

theorem State.overlay_skipIf (c : Bool) : (s.overlay b k).skipIf c = (s.skipIf c).overlay b k := by
  cases c <;> rfl

theorem State.overlay_drawPixel (px : Fin 64) (py : Fin 32) : (s.overlay b k).drawPixel px py = (s.drawPixel px py).overlay b k := by
  have hcell : (s.overlay b k).cell px py = s.cell px py := rfl
  unfold State.drawPixel
  rw [hcell]
  split <;> rfl

theorem State.overlay_drawBit (d : Byte) (x0 y0 r c : Nat) :
    (s.overlay b k).drawBit d x0 y0 r c = (s.drawBit d x0 y0 r c).overlay b k := by
  unfold State.drawBit
  split
  · exact s.overlay_drawPixel b k _ _
  · rfl

theorem State.overlay_drawSprite (x0 y0 n : Nat) : (s.overlay b k).drawSprite x0 y0 n = (s.drawSprite x0 y0 n).overlay b k :=
  List.foldl_hom (fun t => State.overlay t b k) fun _ r =>
    List.foldl_hom (fun t => State.overlay t b k) fun t c => t.overlay_drawBit b k _ x0 y0 r c

theorem State.overlay_writeRegs (x : RegIx) : (s.overlay b k).writeRegs x = (s.writeRegs x).overlay b k :=
  List.foldl_hom (fun t => State.overlay t b k) fun t r => t.overlay_writeByte b k (t.ea r.val) (t.reg r)

theorem State.overlay_readRegs (x : RegIx) : (s.overlay b k).readRegs x = (s.readRegs x).overlay b k :=
  List.foldl_hom (fun t => State.overlay t b k) fun _ _ => rfl

theorem State.overlay_writeDigits (d : Byte) : (s.overlay b k).writeDigits d = (s.writeDigits d).overlay b k := by
  simp only [State.writeDigits_eq, State.overlay_writeByte]
  rfl

end

/-- The instructions that sample KEYS (10_state.md R22). -/
def ReadsKeys : Instr → Prop
  | .skp _ | .sknp _ | .ldVxKey _ => True
  | _ => False

/-- Nothing reads ST, and KEYS is read by three instructions: the execute phase of any other one, and of these under the same snapshot,
commutes with the overlay. FX18 writes ST and is left out. -/
theorem exec_overlay {i : Instr} {s t : State} (h : exec i s = .next t) (b : Byte) (k : BitVec 16)
    (hst : ∀ x, i ≠ .ldStVx x) (hkeys : ReadsKeys i → k = s.keys) : exec i (s.overlay b k) = .next (t.overlay b k) := by
  cases i
  case ldStVx x => exact absurd rfl (hst x)
  case storeBcd x =>
    cases h
    exact congrArg Host.Outcome.next (by rw [← s.overlay_checked, ← s.overlay_writeDigits]; rfl)
  case storeRegs x =>
    cases h
    exact congrArg Host.Outcome.next (by rw [← s.overlay_checked, ← s.overlay_writeRegs])
  case loadRegs x =>
    cases h
    exact congrArg Host.Outcome.next (by rw [← s.overlay_checked, ← s.overlay_readRegs])
  case drw x y n =>
    cases h
    exact congrArg Host.Outcome.next (by rw [← s.overlay_checked, ← State.overlay_drawSprite]; rfl)
  case call nnn =>
    rcases exec_call_cases nnn s with ⟨hlt, e⟩ | ⟨hfull, e⟩ <;> rw [e] at h <;> cases h <;>
      rcases exec_call_cases nnn (s.overlay b k) with ⟨hlt', e'⟩ | ⟨hfull', e'⟩
    · exact e'
    · exact absurd hfull' hlt.ne
    · exact absurd hfull hlt'.ne
    · exact e'
  case ret ign =>
    rcases exec_ret_cases ign s with ⟨j, hj, e⟩ | ⟨hempty, e⟩ <;> rw [e] at h <;> cases h <;>
      rcases exec_ret_cases ign (s.overlay b k) with ⟨j', hj', e'⟩ | ⟨hempty', e'⟩
    · obtain rfl : j' = j := Fin.ext (Nat.succ.inj (hj'.symm.trans hj))
      exact e'
    · exact absurd (hj.symm.trans hempty') (Nat.succ_ne_zero _)
    · exact absurd (hj'.symm.trans hempty) (Nat.succ_ne_zero _)
    · exact e'
  case skp | sknp =>
    obtain rfl := hkeys trivial
    cases h
    exact congrArg Host.Outcome.next (State.overlay_skipIf s b s.keys _)
  case ldVxKey x =>
    obtain rfl := hkeys trivial
    have hlow : (s.overlay b s.keys).lowestKey = s.lowestKey := rfl
    rcases exec_ldVxKey_cases x s with ⟨j, hj, e⟩ | ⟨hnone, e⟩ <;> rw [e] at h <;> cases h <;>
      rcases exec_ldVxKey_cases x (s.overlay b s.keys) with ⟨j', hj', e'⟩ | ⟨hnone', e'⟩
    · obtain rfl : j' = j := Option.some.inj ((hj'.symm.trans hlow).trans hj)
      exact e'
    · exact absurd (hj.symm.trans hnone') (by simp)
    · exact absurd (hnone.symm.trans hj') (by simp)
    · exact e'
  case seImm | sneImm | seReg | sneReg =>
    cases h
    exact congrArg Host.Outcome.next (State.overlay_skipIf s b k _)
  all_goals
    cases h
    rfl

/-- An overlay of ST changes ST alone. -/
theorem OnlyChanges.setSt (s : State) (b : Byte) : OnlyChanges (fun p => p = .st) s (s.setSt b) := by
  intro p hp
  cases p <;> simp_all [Part.Same]

/-- The execute phase from another sound timer: FX18 overwrites it, and every other instruction carries it along. -/
theorem exec_setSt {i : Instr} {s t : State} (h : exec i s = .next t) (b : Byte) :
    ∃ u, exec i (s.setSt b) = .next u ∧ OnlyChanges (fun p => p = .st) t u := by
  by_cases hi : ∃ x, i = .ldStVx x
  · obtain ⟨x, rfl⟩ := hi
    rw [exec_ldStVx] at h
    cases h
    exact ⟨_, exec_ldStVx x (s.setSt b), OnlyChanges.refl _ _⟩
  · have hkeys : t.keys = s.keys := exec_frame h .keys (not_mayWrite_input i).2.1
    refine ⟨t.setSt b, ?_, OnlyChanges.setSt t b⟩
    rw [State.setSt_eq_overlay, State.setSt_eq_overlay, hkeys]
    exact exec_overlay h b s.keys (fun x hx => hi ⟨x, hx⟩) fun _ => rfl

/-- Settles O48: the gate and the fetch do not read ST, and the execute phase carries it along. -/
theorem soundTimerIsNeverRead : Obligations.SoundTimerIsNeverRead := by
  intro s t b h
  rcases coreStep_cases s with ⟨hs, e⟩ | ⟨hs, hf, e⟩ | ⟨hs, hf, e⟩ <;> rw [e] at h
  · cases h
    exact ⟨_, if_pos hs, OnlyChanges.setSt s b⟩
  · cases h
    refine ⟨(s.raise .haltPc).setSt b, ?_, OnlyChanges.setSt _ b⟩
    rcases coreStep_cases (s.setSt b) with ⟨hs', _⟩ | ⟨_, _, e'⟩ | ⟨_, hf', _⟩
    · exact absurd hs hs'
    · exact e'
    · exact absurd (hf.symm.trans hf') (by decide)
  · obtain ⟨u, hu, hframe⟩ := exec_setSt h b
    refine ⟨u, ?_, hframe⟩
    rcases coreStep_cases (s.setSt b) with ⟨hs', _⟩ | ⟨_, hf', _⟩ | ⟨_, _, e'⟩
    · exact absurd hs hs'
    · exact absurd (hf.symm.trans hf') (by decide)
    · exact e'.trans hu

/-- Settles O49: FX18 writes ST from a register, and every other instruction that does not sample KEYS carries the snapshot along. -/
theorem keysAreReadByKeyInstructionsOnly : Obligations.KeysAreReadByKeyInstructionsOnly := by
  intro i s t k hi h
  have hkeys : ¬ ReadsKeys i := by
    cases i
    case skp x => exact absurd rfl (hi x).1
    case sknp x => exact absurd rfl (hi x).2.1
    case ldVxKey x => exact absurd rfl (hi x).2.2
    all_goals exact id
  by_cases hst : ∃ x, i = .ldStVx x
  · obtain ⟨x, rfl⟩ := hst
    rw [exec_ldStVx] at h
    cases h
    exact ⟨_, exec_ldStVx x (s.hostSetKeys k), rfl, OnlyChanges.hostSetKeys (s.setSt (s.reg x)) k⟩
  · have hsame : t.st = s.st := exec_frame h .st fun hw => hst (writers_of_st hw)
    refine ⟨t.hostSetKeys k, ?_, rfl, OnlyChanges.hostSetKeys t k⟩
    rw [State.hostSetKeys_eq_overlay, State.hostSetKeys_eq_overlay, hsame]
    exact exec_overlay h s.st k (fun x hx => hst ⟨x, hx⟩) fun hr => absurd hr hkeys

end Sys2Proof.Machine

/-! SUPPORT. The views (44_display.md section 3, 10_state.md section 11). -/

namespace Sys2Proof.Machine

theorem State.framebuffer_getElem (s : State) (x : Fin 64) (y : Fin 32) (h : y.val * 64 + x.val < 2048) :
    s.framebuffer[y.val * 64 + x.val] = s.cell x y := by
  have hx : Fin.ofNat 64 (y.val * 64 + x.val) = x := Fin.ext (by simp only [Fin.val_ofNat]; omega)
  have hy : Fin.ofNat 32 ((y.val * 64 + x.val) / 64) = y := Fin.ext (by simp only [Fin.val_ofNat]; omega)
  rw [State.framebuffer, Vector.getElem_ofFn, hx, hy]

theorem State.registerView_mem_getElem (s : State) (a : Nat) (h : a < 4096) : s.registerView.mem[a] = s.memByte a :=
  Vector.getElem_ofFn h

/-- Settles O59: both views are built index by index, and 64 * y + x divides back into x and y. -/
theorem viewsShowDisplayAndMemory : Obligations.ViewsShowDisplayAndMemory := by
  intro s
  refine ⟨fun x y => ?_, fun a ha => ?_⟩
  · have h : y.val * 64 + x.val < 2048 := by omega
    rw [Vector.getElem?_eq_getElem h, s.framebuffer_getElem x y h]
  · rw [Vector.getElem?_eq_getElem ha, s.registerView_mem_getElem a ha]

end Sys2Proof.Machine
